-- ==== Sys2Proof/Word.lean ====
section
/-! DEFINITION. The word types of the block: bytes, halfwords, instruction fields, register and key numbers. -/

namespace Sys2Proof

/-- A byte: a general register, a timer, a memory cell (rules R21, R29, R30, R33). -/
abbrev Byte := BitVec 8

/-- A halfword: `I`, `pc`, a stack entry, an instruction word (rules R24, R28, R31, R70). -/
abbrev Halfword := BitVec 16

/-- A 4-bit instruction field (rule R71). -/
abbrev Nibble := BitVec 4

/-- The 12-bit address field `nnn` (rules R71, R73). -/
abbrev Addr := BitVec 12

/-- The number of a general register, always in 0..15 (rule R21). -/
abbrev Reg := Fin 16

/-- The identifier of a key, 0..15 (rule R35). -/
abbrev Key := Fin 16

end Sys2Proof
end

