-- ==== Sys2Proof/Syntax.lean ====
section
/-! DEFINITION. The 34 operations, one constructor per row of spec/opcode_table.json (rules R2, R74). -/

namespace Sys2Proof

/-- A decoded operation with its operands (rule R74). Register numbers, addresses, immediates and
counts have the width of their field, so an operand out of range cannot be written (rule R73).
`ret` is the spec's `Return`: the word `return` is Lean's own. -/
inductive Instr where
  | clearDisplay
  | ret
  | jump (addr : Addr)
  | call (addr : Addr)
  | skipEqVal (x : Reg) (val : Byte)
  | skipNotEqVal (x : Reg) (val : Byte)
  | skipEq (x y : Reg)
  | setVal (x : Reg) (val : Byte)
  | addVal (x : Reg) (val : Byte)
  | copy (x y : Reg)
  | or (x y : Reg)
  | and (x y : Reg)
  | xor (x y : Reg)
  | add (x y : Reg)
  | subtract (x y : Reg)
  /-- Bits 7..4 of the word are no operand (rule R78). -/
  | shiftRight (x : Reg)
  | difference (x y : Reg)
  /-- Bits 7..4 of the word are no operand (rule R78). -/
  | shiftLeft (x : Reg)
  | skipNotEq (x y : Reg)
  | setIndex (addr : Addr)
  | jumpOffset (addr : Addr)
  | rand (x : Reg) (val : Byte)
  | drawSprite (x y : Reg) (n : Nibble)
  | skipKeyPressed (x : Reg)
  | skipKeyNotPressed (x : Reg)
  | getDelayTimer (x : Reg)
  | getKeyPress (x : Reg)
  | setDelayTimer (x : Reg)
  | setSoundTimer (x : Reg)
  | addIndex (x : Reg)
  | setIndexCharacter (x : Reg)
  | storeBCD (x : Reg)
  | regDump (x : Reg)
  | regLoad (x : Reg)
  deriving DecidableEq, Repr

/-- The decoder's verdict on a word: an operation, or `Unrecognized` (rules R74, R76, R89). -/
inductive Verdict where
  | operation (i : Instr)
  /-- No row of the opcode map matches the word. It is no error and no fault (rule R103). -/
  | unrecognized
  deriving DecidableEq, Repr

/-- The decoder's answer on a list of bytes. -/
inductive ByteVerdict where
  /-- The first two bytes have the verdict `v`. `rest` is what follows them. -/
  | decoded (v : Verdict) (rest : List Byte)
  /-- There are fewer than the two bytes of an instruction (rule R70). -/
  | truncated
  deriving DecidableEq, Repr

/-- What an operand position of the assembler syntax takes (rule R92). -/
inductive OperandKind where
  | register | address | immediate | count
  deriving DecidableEq, Repr

/-- A line of the assembler syntax with its numbers as written: the operation's name and, for each operand
position, a register number or a number, in or out of range (rule R92). -/
structure SourceLine where
  mnemonic : String
  operands : List Nat
  deriving DecidableEq, Repr

/-- A line of a program in the assembler syntax (rule R92). -/
inductive ProgramLine where
  /-- An operation with its operands as numbers. -/
  | operation (l : SourceLine)
  /-- An operation on an address that is written as a label. -/
  | toLabel (mnemonic name : String)
  /-- The data directive `.byte`. -/
  | bytes (bs : List Nat)
  /-- A label: it names the address of what follows. -/
  | label (name : String)
  deriving DecidableEq, Repr

end Sys2Proof
end

