-- ==== Sys2Proof/Decode.lean ====
section
/-! DEFINITION. The opcode map, the decoder and the encoder (30_encoding.md). Every instruction is one 16-bit
word, big-endian in memory (rules R52, R70). -/

namespace Sys2Proof

/-! ## The opcode map -/

/-- The 34 rows of the opcode map in its own order: name, mask, match (rule R75). The bit patterns are the
spec's own, which it took from general knowledge (93_implementation_defined.md G1, D2): UNVERIFIED, assumption 1. -/
def opcodeTable : List (String × Halfword × Halfword) :=
  [("ClearDisplay", 0xFFFF, 0x00E0), ("Return", 0xFFFF, 0x00EE),
   ("Jump", 0xF000, 0x1000), ("Call", 0xF000, 0x2000),
   ("SkipEqVal", 0xF000, 0x3000), ("SkipNotEqVal", 0xF000, 0x4000),
   ("SkipEq", 0xF00F, 0x5000), ("SetVal", 0xF000, 0x6000),
   ("AddVal", 0xF000, 0x7000)] ++
  [("Copy", 0xF00F, 0x8000), ("Or", 0xF00F, 0x8001),
   ("And", 0xF00F, 0x8002), ("Xor", 0xF00F, 0x8003),
   ("Add", 0xF00F, 0x8004), ("Subtract", 0xF00F, 0x8005),
   ("ShiftRight", 0xF00F, 0x8006), ("Difference", 0xF00F, 0x8007),
   ("ShiftLeft", 0xF00F, 0x800E), ("SkipNotEq", 0xF00F, 0x9000)] ++
  [("SetIndex", 0xF000, 0xA000), ("JumpOffset", 0xF000, 0xB000),
   ("Rand", 0xF000, 0xC000), ("DrawSprite", 0xF000, 0xD000),
   ("SkipKeyPressed", 0xF0FF, 0xE09E), ("SkipKeyNotPressed", 0xF0FF, 0xE0A1)] ++
  [("GetDelayTimer", 0xF0FF, 0xF007), ("GetKeyPress", 0xF0FF, 0xF00A),
   ("SetDelayTimer", 0xF0FF, 0xF015), ("SetSoundTimer", 0xF0FF, 0xF018),
   ("AddIndex", 0xF0FF, 0xF01E), ("SetIndexCharacter", 0xF0FF, 0xF029),
   ("StoreBCD", 0xF0FF, 0xF033), ("RegDump", 0xF0FF, 0xF055),
   ("RegLoad", 0xF0FF, 0xF065)]

/-- A row of the opcode map selects the words with `w & mask == match` (rule R75). -/
def rowSelects (row : String × Halfword × Halfword) (w : Halfword) : Bool :=
  w &&& row.2.1 == row.2.2

/-! ## Fields (rule R71) -/

/-- `op1 = w[15:12]`, the instruction family. -/
def opField (w : Halfword) : Nibble := w.extractLsb' 12 4

/-- `x = w[11:8]`, as a register number. -/
def xField (w : Halfword) : Reg := (w.extractLsb' 8 4).toFin

/-- `y = w[7:4]`, as a register number. -/
def yField (w : Halfword) : Reg := (w.extractLsb' 4 4).toFin

/-- `n = w[3:0]`. -/
def nField (w : Halfword) : Nibble := w.extractLsb' 0 4

/-- `nn = w[7:0]`. -/
def nnField (w : Halfword) : Byte := w.extractLsb' 0 8

/-- `nnn = w[11:0]`. -/
def nnnField (w : Halfword) : Addr := w.extractLsb' 0 12

/-! ## The decoder (rule R76) -/

/-- Family 0x0: only the two whole words are recognized (rule R77, D4). -/
def decodeFamily0 (w : Halfword) : Verdict :=
  if w = 0x00E0 then .operation .clearDisplay
  else if w = 0x00EE then .operation .ret
  else .unrecognized

/-- Family 0x8: the low nibble selects the operation. The shifts ignore `y` (rule R78). -/
def decodeFamily8 (x y : Reg) (n : Nibble) : Verdict :=
  match n.toNat with
  | 0x0 => .operation (.copy x y)
  | 0x1 => .operation (.or x y)
  | 0x2 => .operation (.and x y)
  | 0x3 => .operation (.xor x y)
  | 0x4 => .operation (.add x y)
  | 0x5 => .operation (.subtract x y)
  | 0x6 => .operation (.shiftRight x)
  | 0x7 => .operation (.difference x y)
  | 0xE => .operation (.shiftLeft x)
  | _ => .unrecognized

/-- Family 0xE: the low byte selects the operation. -/
def decodeFamilyE (x : Reg) (nn : Byte) : Verdict :=
  match nn.toNat with
  | 0x9E => .operation (.skipKeyPressed x)
  | 0xA1 => .operation (.skipKeyNotPressed x)
  | _ => .unrecognized

/-- Family 0xF: the low byte selects the operation. -/
def decodeFamilyF (x : Reg) (nn : Byte) : Verdict :=
  match nn.toNat with
  | 0x07 => .operation (.getDelayTimer x)
  | 0x0A => .operation (.getKeyPress x)
  | 0x15 => .operation (.setDelayTimer x)
  | 0x18 => .operation (.setSoundTimer x)
  | 0x1E => .operation (.addIndex x)
  | 0x29 => .operation (.setIndexCharacter x)
  | 0x33 => .operation (.storeBCD x)
  | 0x55 => .operation (.regDump x)
  | 0x65 => .operation (.regLoad x)
  | _ => .unrecognized

/-- The decoder: pure, stateless and total on all 65536 words (rule R76). -/
def decode (w : Halfword) : Verdict :=
  match (opField w).toNat with
  | 0x0 => decodeFamily0 w
  | 0x1 => .operation (.jump (nnnField w))
  | 0x2 => .operation (.call (nnnField w))
  | 0x3 => .operation (.skipEqVal (xField w) (nnField w))
  | 0x4 => .operation (.skipNotEqVal (xField w) (nnField w))
  | 0x5 => if nField w = 0 then .operation (.skipEq (xField w) (yField w)) else .unrecognized
  | 0x6 => .operation (.setVal (xField w) (nnField w))
  | 0x7 => .operation (.addVal (xField w) (nnField w))
  | 0x8 => decodeFamily8 (xField w) (yField w) (nField w)
  | 0x9 => if nField w = 0 then .operation (.skipNotEq (xField w) (yField w)) else .unrecognized
  | 0xA => .operation (.setIndex (nnnField w))
  | 0xB => .operation (.jumpOffset (nnnField w))
  | 0xC => .operation (.rand (xField w) (nnField w))
  | 0xD => .operation (.drawSprite (xField w) (yField w) (nField w))
  | 0xE => decodeFamilyE (xField w) (nnField w)
  | _ => decodeFamilyF (xField w) (nnField w)

/-- A big-endian halfword: the byte at the lower address holds bits 15..8 (rule R52). -/
def halfwordOfBytes (hi lo : Byte) : Halfword := hi ++ lo

/-- The decoder on any list of bytes: it takes the first two and keeps the rest (rules R52, R70). -/
def decodeBytes : List Byte → ByteVerdict
  | hi :: lo :: rest => .decoded (decode (halfwordOfBytes hi lo)) rest
  | _ => .truncated

/-! ## The encoder (rules R72, R75, R92) -/

/-- Format A: `op1`, then the address. -/
def encodeA (op1 : Nibble) (addr : Addr) : Halfword := op1 ++ addr

/-- A register number as its field. -/
def regNibble (r : Reg) : Nibble := BitVec.ofFin r

/-- Format XN: `op1`, the register, the immediate. Format X is the same with a fixed low byte. -/
def encodeXN (op1 : Nibble) (x : Reg) (nn : Byte) : Halfword := op1 ++ regNibble x ++ nn

/-- Format XYN: `op1`, two registers, the low nibble. Format XY is the same with a fixed low nibble. -/
def encodeXYN (op1 : Nibble) (x y : Reg) (n : Nibble) : Halfword :=
  op1 ++ regNibble x ++ regNibble y ++ n

/-- The word of an operation. A shift is written with `y = 0` (rule R92, D27). -/
def encode : Instr → Halfword
  | .clearDisplay => 0x00E0
  | .ret => 0x00EE
  | .jump addr => encodeA 0x1 addr
  | .call addr => encodeA 0x2 addr
  | .skipEqVal x val => encodeXN 0x3 x val
  | .skipNotEqVal x val => encodeXN 0x4 x val
  | .skipEq x y => encodeXYN 0x5 x y 0x0
  | .setVal x val => encodeXN 0x6 x val
  | .addVal x val => encodeXN 0x7 x val
  | .copy x y => encodeXYN 0x8 x y 0x0
  | .or x y => encodeXYN 0x8 x y 0x1
  | .and x y => encodeXYN 0x8 x y 0x2
  | .xor x y => encodeXYN 0x8 x y 0x3
  | .add x y => encodeXYN 0x8 x y 0x4
  | .subtract x y => encodeXYN 0x8 x y 0x5
  | .shiftRight x => encodeXYN 0x8 x 0 0x6
  | .difference x y => encodeXYN 0x8 x y 0x7
  | .shiftLeft x => encodeXYN 0x8 x 0 0xE
  | .skipNotEq x y => encodeXYN 0x9 x y 0x0
  | .setIndex addr => encodeA 0xA addr
  | .jumpOffset addr => encodeA 0xB addr
  | .rand x val => encodeXN 0xC x val
  | .drawSprite x y n => encodeXYN 0xD x y n
  | .skipKeyPressed x => encodeXN 0xE x 0x9E
  | .skipKeyNotPressed x => encodeXN 0xE x 0xA1
  | .getDelayTimer x => encodeXN 0xF x 0x07
  | .getKeyPress x => encodeXN 0xF x 0x0A
  | .setDelayTimer x => encodeXN 0xF x 0x15
  | .setSoundTimer x => encodeXN 0xF x 0x18
  | .addIndex x => encodeXN 0xF x 0x1E
  | .setIndexCharacter x => encodeXN 0xF x 0x29
  | .storeBCD x => encodeXN 0xF x 0x33
  | .regDump x => encodeXN 0xF x 0x55
  | .regLoad x => encodeXN 0xF x 0x65

/-- The high byte of a halfword, the one at the lower address (rule R52). -/
def highByte (w : Halfword) : Byte := w.extractLsb' 8 8

/-- The low byte of a halfword, the one at the higher address (rule R52). -/
def lowByte (w : Halfword) : Byte := w.extractLsb' 0 8

/-- The two bytes of an operation as memory holds them. -/
def encodeBytes (i : Instr) : List Byte := [highByte (encode i), lowByte (encode i)]

/-- The instruction this decoder reads from a word numbered as spec/opcode_table.json numbers it. -/
def decodeTableWord (nbits w : Nat) : Option Instr :=
  let word : Halfword := BitVec.ofNat 16 (w % 2 ^ nbits)
  match decodeBytes [highByte word, lowByte word] with
  | .decoded (.operation i) _ => some i
  | .decoded .unrecognized _ => none
  | .truncated => none

end Sys2Proof
end

