-- ==== Sys2Proof/Config.lean ====
section
/-! DEFINITION. What an implementation fixes (rule R7) and the free value of the `RAND` port. -/

namespace Sys2Proof

/-- MEM_SIZE: addresses 0..4095 (rule R7). -/
@[simp] abbrev Config.memSize : Nat := 4096

/-- PROGRAM_BASE: where the image is placed and where execution begins (rules R7, R282). -/
@[simp] abbrev Config.programBase : Nat := 512

/-- MAX_IMAGE: the longest program image that loads (rules R7, R285). -/
@[simp] abbrev Config.maxImage : Nat := 3584

/-- STACK_DEPTH: the entries of the call stack (rules R7, R31). -/
@[simp] abbrev Config.stackDepth : Nat := 16

/-- FB_WIDTH: columns of the framebuffer (rules R7, R34). -/
@[simp] abbrev Config.fbWidth : Nat := 64

/-- FB_HEIGHT: rows of the framebuffer (rules R7, R34). -/
@[simp] abbrev Config.fbHeight : Nat := 32

/-- GLYPH_SIZE: bytes of one glyph (rules R7, R283). -/
@[simp] abbrev Config.glyphSize : Nat := 5

/-- INSTR_PERIOD in milliseconds (rule R7). -/
@[simp] abbrev Config.instrPeriodMs : Nat := 2

/-- The default of the parameter GLYPHS, 16 glyphs of 5 bytes (rules R7, R283; 93_implementation_defined.md G2, D13).
The spec took these bytes from general knowledge. UNVERIFIED, assumption 4. -/
def Config.glyphs : List Byte :=
  [0xF0, 0x90, 0x90, 0x90, 0xF0,  0x20, 0x60, 0x20, 0x20, 0x70,
   0xF0, 0x10, 0xF0, 0x80, 0xF0,  0xF0, 0x10, 0xF0, 0x10, 0xF0] ++
  [0x90, 0x90, 0xF0, 0x10, 0x10,  0xF0, 0x80, 0xF0, 0x10, 0xF0,
   0xF0, 0x80, 0xF0, 0x90, 0xF0,  0xF0, 0x10, 0x20, 0x40, 0x40] ++
  [0xF0, 0x90, 0xF0, 0x90, 0xF0,  0xF0, 0x90, 0xF0, 0x10, 0xF0,
   0xF0, 0x90, 0xF0, 0x90, 0x90,  0xE0, 0x90, 0xE0, 0x90, 0xE0] ++
  [0xF0, 0x80, 0x80, 0x80, 0xF0,  0xE0, 0x90, 0x90, 0x90, 0xE0,
   0xF0, 0x80, 0xF0, 0x80, 0xF0,  0xF0, 0x80, 0xF0, 0x80, 0x80]

/-- The free value of the `RAND` port (rules R151, R267, D24): draw number `n` of the machine.
It has no body, so no proof can know a value of it. Assumption 5. -/
opaque Config.randDraw : Nat → Byte

/-- The time grid that reset names: 3 000 000 units in a millisecond, a third of a nanosecond.
DESIGN CHOICE, assumption 2. -/
def Config.resetUnitsPerMs : Nat := 3000000

/-- TIMER_PERIOD on the grid that reset names: the nominal 1000/60 ms (rules R7, R252, D20).
DESIGN CHOICE, assumption 3: the exact period is OPEN. -/
def Config.resetTimerPeriod : Nat := 50000000

end Sys2Proof
end

