-- ==== Sys2Proof/Machine/State.lean ====
section
/-! DEFINITION. The state of the block as plain data (10_state.md rule R20), the pending moves of the host, the reasons
a step can stop, and the state after reset. -/

namespace Sys2Proof.Machine

/-- Memory as the cells that differ from what reset puts there, addresses strictly rising
(`Memory.wf`; rule R33). -/
abbrev Memory := List Host.Cell

/-- The 64 x 32 framebuffer by rows: the pixel of column `px` and row `py` is bit `px` of row `py`
(rule R34; `pixel`). -/
abbrev Framebuffer := Vector (BitVec 64) 32

/-- The five fault causes (rule R242). -/
inductive Cause where
  | fetchOutOfRange | stackOverflow | stackUnderflow | memOutOfRange | keyOutOfRange
  deriving DecidableEq, Repr

/-- What a fault record keeps beside the cause, the address and the word: the column "info recorded" of rule R242. -/
inductive FaultInfo where
  | pc (pc : Halfword)
  | sp (sp : Fin 17)
  | access (base : Halfword) (len : Nat)
  | key (key : Byte)
  deriving DecidableEq, Repr

/-- The fault record (rule R243). Its numeric code is a function of the cause (`Cause.code`), so it is not stored. -/
structure FaultRecord where
  cause : Cause
  /-- The address of the faulting instruction. -/
  pc : Halfword
  /-- The word fetched, none when the fetch itself faulted. -/
  word : Option Halfword
  info : FaultInfo
  deriving DecidableEq, Repr

/-- `run_state` (rule R38). -/
inductive RunState where
  | running
  | halted (r : FaultRecord)
  deriving DecidableEq, Repr

/-- A move of the host: a call of the TICK port, a KEY_EVENT, or a reset with its LOAD (rules R44, R262). The host
delivers keys 0..15 only (D26), so no other key can be written here. -/
inductive HostMove where
  | tick (now : Nat)
  | keyEvent (k : Key) (pressed : Bool)
  | reset (image : List Byte) (t0 : Nat)
  deriving DecidableEq, Repr

/-- The state of the block, in the order of rule R20, and after it six fields that are the model's own: the moves
the host has yet to make, what the host duty of rule R255 needs, the parameters of rule R7 that are arguments of the
model, and the count of the random draws.

A timestamp or a length of time is a natural number of units of a time grid: a totally ordered domain with
addition (rule R255, D22). The grid is data (`unitsPerMs`), so that any finite set of rational timestamps
lies on some grid. DESIGN CHOICE, assumption 2. -/
@[ext]
structure State where
  /-- The general registers V0..VF (rule R21). -/
  V : Vector Byte 16
  /-- The index register (rule R28). -/
  I : Halfword
  /-- The program counter (rule R24). -/
  pc : Halfword
  /-- The number of live stack entries, 0..16 (rule R31). -/
  sp : Fin 17
  /-- The call stack (rule R31). -/
  stack : Vector Halfword 16
  /-- The memory (rule R33). -/
  mem : Memory
  /-- The delay timer (rule R29). -/
  DT : Byte
  /-- The sound timer (rule R30). -/
  ST : Byte
  /-- The framebuffer (rule R34). -/
  FB : Framebuffer
  /-- The press states of the keys (rule R35). -/
  KEY : Vector Bool 16
  /-- Is the release tracker armed (rule R36). -/
  kbTracking : Bool
  /-- The last released key (rule R36). -/
  kbLastReleased : Option Key
  /-- When the next instruction is due (rule R37). -/
  nextInstructionDeadline : Nat
  /-- When the next timer step is due (rule R37). -/
  nextTimerDeadline : Nat
  /-- Running, or halted with a fault record (rule R38). -/
  runState : RunState
  /-- MODEL's own: the host's coming moves, the next one first (assumption 6). -/
  hostMoves : List HostMove
  /-- MODEL's own: the latest timestamp seen, for the host duty of rules R255 and R269 (assumption 7). -/
  lastNow : Nat
  /-- MODEL's own: the grid of the timestamps, units in a millisecond (assumption 2). No step changes it. -/
  unitsPerMs : Nat
  /-- MODEL's own: the OPEN parameter TIMER_PERIOD on that grid (rule R7, D20; assumption 3). No step changes it. -/
  timerPeriod : Nat
  /-- MODEL's own: the parameter GLYPHS, the 80 bytes of the font that a reset loads (rules R7, R283, D13; assumption 4).
  No step changes it. -/
  glyphs : Vector Byte 80
  /-- MODEL's own: how many bytes the RAND port has delivered (rule R267; assumption 5). -/
  draws : Nat
  deriving DecidableEq, Repr

/-- Why the machine stops. The block's own faults are no stop: they put it in Halted, which is a next state (rule R241). -/
inductive Fault where
  /-- Raised by `hostTick`: the host's next timestamp lies before one it passed already, which breaks its duty
  (rules R255, R269; U17: no claim covers such a run). Safe: no claim is made of what follows. -/
  | hostClockBackwards
  deriving DecidableEq, Repr

/-- Why there is no meaning. -/
inductive Refusal where
  /-- Raised by an arm of `exec` whose instruction has no meaning yet (none is left). Safe. -/
  | notModelled (mnemonic : String)
  /-- Raised by `load`: the image is longer than 3584 bytes, so the reset is refused and the block does not start
  (rule R285). Safe: the spec gives such a reset no state. -/
  | imageTooLong
  deriving DecidableEq, Repr

/-- The machine right after reset with an empty image at time 0 (rules R281, R282, D11, D12, D21). Memory lists
nothing: an unlisted address reads as the default glyph table and zero (`resetByte`). T0 = 0 and the last six
fields are DESIGN CHOICES (assumptions 2 to 8). -/
def State.reset : State where
  V := Vector.replicate 16 0
  I := 0
  pc := 512
  sp := 0
  stack := Vector.replicate 16 0
  mem := []
  DT := 0
  ST := 0
  FB := Vector.replicate 32 0
  KEY := Vector.replicate 16 false
  kbTracking := false
  kbLastReleased := none
  nextInstructionDeadline := 0
  nextTimerDeadline := 0
  runState := .running
  hostMoves := []
  lastNow := 0
  unitsPerMs := Config.resetUnitsPerMs
  timerPeriod := Config.resetTimerPeriod
  glyphs := Vector.ofFn fun j => Config.glyphs.getD j.val 0
  draws := 0

end Sys2Proof.Machine
end

