-- ==== Sys2Proof/Machine/Ops.lean ====
section
/-! DEFINITION. The named operations over memory, registers and stack, and taking a fault. -/

namespace Sys2Proof.Machine

/-! ## Memory (20_memory.md) -/

/-- What an unlisted address reads as: the reset contents, the glyph table at 0..79 and 0 elsewhere
(rules R33, R59, R281, D12, D13). -/
def resetByte (a : Nat) : Byte := Config.glyphs.getD a 0

/-- `MemRead(a, 1)` (rules R10, R56). A read has no side effect. -/
def Memory.read : Memory → Nat → Byte
  | [], a => resetByte a
  | (k, v) :: t, a => if a < k then resetByte a else if a = k then v else Memory.read t a

/-- `MemWrite(a, 1, b)` (rules R10, R60). Writing what an unlisted address reads as removes the cell. -/
def Memory.write : Memory → Nat → Byte → Memory
  | [], a, b => if b = resetByte a then [] else [(a, b)]
  | (k, v) :: t, a, b =>
    if a < k then (if b = resetByte a then (k, v) :: t else (a, b) :: (k, v) :: t)
    else if a = k then (if b = resetByte a then t else (a, b) :: t)
    else (k, v) :: Memory.write t a b

/-- The canonical form from address `lo` on. -/
def Memory.wfFrom : Nat → Memory → Bool
  | _, [] => true
  | lo, (k, v) :: t =>
    decide (lo ≤ k) && decide (k < Config.memSize) && decide (v ≠ resetByte k) && Memory.wfFrom (k + 1) t

/-- The canonical form: addresses strictly rising, all below 4096, and no cell equal to what an unlisted address
reads as. So equal memories are equal lists. -/
def Memory.wf (m : Memory) : Bool := Memory.wfFrom 0 m

/-- Bytes read at ascending addresses from `a` on (rule R55). -/
def Memory.readBytes (m : Memory) (a : Nat) : Nat → List Byte
  | 0 => []
  | n + 1 => m.read a :: Memory.readBytes m (a + 1) n

/-- Bytes written at ascending addresses from `a` on (rule R55). -/
def Memory.writeBytes (m : Memory) (a : Nat) : List Byte → Memory
  | [] => m
  | b :: bs => Memory.writeBytes (m.write a b) (a + 1) bs

/-- The word at `a`, big-endian, when its two bytes lie in memory; none past address 4094
(rules R52, R54, R102). An odd `a` reads like an even one. -/
def State.wordAt (s : State) (a : Halfword) : Option Halfword :=
  if a.toNat + 2 ≤ Config.memSize then
    some (halfwordOfBytes (s.mem.read a.toNat) (s.mem.read (a.toNat + 1)))
  else none

/-! ## Registers (10_state.md) -/

/-- `V[r]` (rules R10, R21). -/
def State.reg (s : State) (r : Reg) : Byte := s.V[r]

/-- `V[r] <- b` (rules R10, R21). No register is hard-wired. -/
def State.setReg (s : State) (r : Reg) (b : Byte) : State := { s with V := s.V.set r b }

/-- Replace the register file. -/
def State.setRegs (s : State) (V : Vector Byte 16) : State := { s with V := V }

/-- The register that doubles as the flag (rules R22, R40). -/
abbrev VF : Reg := 15

/-- `pc <- a` (rule R24). -/
def State.setPc (s : State) (a : Halfword) : State := { s with pc := a }

/-- `I <- a` (rule R28). -/
def State.setIndex (s : State) (a : Halfword) : State := { s with I := a }

/-- Replace the memory. -/
def State.setMem (s : State) (m : Memory) : State := { s with mem := m }

/-- `DT <- b` (rule R29). -/
def State.setDelay (s : State) (b : Byte) : State := { s with DT := b }

/-- `ST <- b` (rule R30). -/
def State.setSound (s : State) (b : Byte) : State := { s with ST := b }

/-- Replace the framebuffer. -/
def State.setFrame (s : State) (f : Framebuffer) : State := { s with FB := f }

/-- Write the two elements of the release tracker (rule R36). -/
def State.setTracker (s : State) (tracking : Bool) (released : Option Key) : State :=
  { s with kbTracking := tracking, kbLastReleased := released }

/-- Count one delivery of the RAND port (rule R267). -/
def State.countDraw (s : State) : State := { s with draws := s.draws + 1 }

/-! ## Program counter and stack -/

/-- Skip the next instruction when `c` holds: 2 more, whatever word is there (rule R108). -/
def State.skipIf (s : State) (c : Bool) : State := if c then s.setPc (s.pc + 2) else s

/-- The stack entry with index `n`, for `n` below 16 (rule R31). -/
def stackSlot (n : Nat) : Fin 16 := Fin.ofNat 16 n

/-- `stack[sp] <- a; sp <- sp + 1`, for `sp` below 16 (rules R31, R122). -/
def State.push (s : State) (a : Halfword) : State :=
  { s with stack := s.stack.set (stackSlot s.sp.val) a, sp := Fin.ofNat 17 (s.sp.val + 1) }

/-- The entry that `sp - 1` names, for `sp` above 0 (rule R31). -/
def State.topOfStack (s : State) : Halfword := s.stack[stackSlot (s.sp.val - 1)]

/-- `sp <- sp - 1`. The popped entry stays in place (rule R32). -/
def State.dropTop (s : State) : State := { s with sp := Fin.ofNat 17 (s.sp.val - 1) }

/-! ## Taking a fault (60_exceptions.md) -/

/-- The numeric code of a cause (rule R242, D29). -/
def Cause.code : Cause → Nat
  | .fetchOutOfRange => 1
  | .stackOverflow => 2
  | .stackUnderflow => 3
  | .memOutOfRange => 4
  | .keyOutOfRange => 5

/-- The code that a record reports (rule R243): the code of its cause. -/
def FaultRecord.code (r : FaultRecord) : Nat := r.cause.code

/-- Taking a fault of the instruction at `ia` (rules R105, R241, R243, R246): `pc` is `ia` again, `run_state` is
Halted with the record, and nothing else changes. The word of the record is the word at `ia`: no operation writes
memory before its checks, so it is the word that was fetched; past address 4094 it is none. There is no
vector, no saved status and no return: only a reset leaves Halted (rules R246, R247). -/
def takeFault (ia : Halfword) (cause : Cause) (info : FaultInfo) (s : State) : State :=
  { s with
    pc := ia
    runState := .halted { cause := cause, pc := ia, word := s.wordAt ia, info := info } }

/-- `raise Fault(cause, info)` in an operation's rule, where `pc = ia + 2` (rules R10, R100, R105). -/
def raise (cause : Cause) (info : FaultInfo) (s : State) : Host.Outcome State Fault Refusal :=
  .next (takeFault (s.pc - 2) cause info s)

/-- `check_range(len)` before the effect `k` (rule R57): `I + len` is computed exactly. -/
def withRange (len : Nat) (k : State → State) (s : State) : Host.Outcome State Fault Refusal :=
  if s.I.toNat + len ≤ Config.memSize then .next (k s) else raise .memOutOfRange (.access s.I len) s

end Sys2Proof.Machine
end

