-- ==== Sys2Proof/Machine/Flags.lean ====
section
/-! DEFINITION. The flag computations. VF is the only flag of the block (rule R40). -/

namespace Sys2Proof.Machine

/-- A flag as the byte VF takes. -/
def flagByte (b : Bool) : Byte := if b then 1 else 0

/-- The carry of an addition: 1 when the exact sum is above 255 (rules R40, R146). -/
def carryFlag (a b : Byte) : Byte := flagByte (decide (a.toNat + b.toNat > 255))

/-- The flag of `a - b`: 1 when there is no borrow, equality included (rules R40, R147, R148). -/
def noBorrowFlag (a b : Byte) : Byte := flagByte (decide ((a.toNat : Int) - (b.toNat : Int) ≥ 0))

/-- The bit a right shift moves out (rules R40, R149). -/
def shiftRightFlag (a : Byte) : Byte := a &&& 1

/-- The bit a left shift moves out (rules R40, R150). -/
def shiftLeftFlag (a : Byte) : Byte := flagByte (decide (a &&& 0x80 ≠ 0))

/-- The collision flag (rules R40, R196). -/
def collisionFlag (collided : Bool) : Byte := flagByte collided

end Sys2Proof.Machine
end

