-- ==== Sys2Proof/Machine/Operands.lean ====
section
/-! DEFINITION. The operand forms: address operands, digits, glyph addresses, and the register transfers at `I`
(rules R73, R176). -/

namespace Sys2Proof.Machine

/-- An address operand, zero-extended to 16 bits: neither shifted nor sign-extended (rule R73). -/
def addressOperand (nnn : Addr) : Halfword := nnn.setWidth 16

/-- An address operand plus a register, exact: at most 0x10FE (rule R123). -/
def offsetAddress (nnn : Addr) (b : Byte) : Halfword := nnn.setWidth 16 + b.setWidth 16

/-- `I + V[x]` mod 65536 (rule R171, D7). -/
def indexPlus (index : Halfword) (b : Byte) : Halfword := index + b.setWidth 16

/-- `V[x] * 5`, exact: the address of glyph `V[x]`, unmasked (rule R172). -/
def glyphAddress (b : Byte) : Halfword := BitVec.ofNat 16 (b.toNat * Config.glyphSize)

/-- The hundreds digit (rule R173). -/
def hundreds (b : Byte) : Byte := BitVec.ofNat 8 (b.toNat / 100)

/-- The tens digit (rule R173). -/
def tens (b : Byte) : Byte := BitVec.ofNat 8 (b.toNat / 10 % 10)

/-- The ones digit (rule R173). -/
def ones (b : Byte) : Byte := BitVec.ofNat 8 (b.toNat % 10)

/-- How many registers `V[0..x]` are (rules R174, R175). -/
def regCount (x : Reg) : Nat := x.val + 1

/-- The first `n` registers written at ascending addresses from `base` on (rule R174). -/
def dumpRegs (V : Vector Byte 16) (base : Nat) : Nat → Memory → Memory
  | 0, m => m
  | n + 1, m => (dumpRegs V base n m).write (base + n) (V.getD n 0)

/-- The first `n` registers loaded from ascending addresses from `base` on (rule R175). -/
def loadRegs (m : Memory) (base : Nat) : Nat → Vector Byte 16 → Vector Byte 16
  | 0, V => V
  | n + 1, V => (loadRegs m base n V).setIfInBounds n (m.read (base + n))

end Sys2Proof.Machine
end

