-- ==== Sys2Proof/Machine/Alu.lean ====
section
/-! DEFINITION. The meanings of the register operations (42_alu.md). Statements run in the order written
(rule R11, D18), which decides the cases where a field names VF. -/

namespace Sys2Proof.Machine

/-- SetVal (rule R140). -/
def execSetVal (x : Reg) (val : Byte) (s : State) : Host.Outcome State Fault Refusal :=
  .next (s.setReg x val)

/-- AddVal (rule R141): no flag. -/
def execAddVal (x : Reg) (val : Byte) (s : State) : Host.Outcome State Fault Refusal :=
  .next (s.setReg x (s.reg x + val))

/-- Copy (rule R142). -/
def execCopy (x y : Reg) (s : State) : Host.Outcome State Fault Refusal :=
  .next (s.setReg x (s.reg y))

/-- Or (rule R143): VF is unchanged unless it is the destination (D33). -/
def execOr (x y : Reg) (s : State) : Host.Outcome State Fault Refusal :=
  .next (s.setReg x (s.reg x ||| s.reg y))

/-- And (rule R144). -/
def execAnd (x y : Reg) (s : State) : Host.Outcome State Fault Refusal :=
  .next (s.setReg x (s.reg x &&& s.reg y))

/-- Xor (rule R145). -/
def execXor (x y : Reg) (s : State) : Host.Outcome State Fault Refusal :=
  .next (s.setReg x (s.reg x ^^^ s.reg y))

/-- A result, then VF: the order of Add, Subtract and Difference (rules R146 to R148). -/
def resultThenFlag (x : Reg) (result flag : Byte) (s : State) : State :=
  (s.setReg x result).setReg VF flag

/-- Add (rule R146). -/
def execAdd (x y : Reg) (s : State) : Host.Outcome State Fault Refusal :=
  .next (resultThenFlag x (s.reg x + s.reg y) (carryFlag (s.reg x) (s.reg y)) s)

/-- Subtract (rule R147). -/
def execSubtract (x y : Reg) (s : State) : Host.Outcome State Fault Refusal :=
  .next (resultThenFlag x (s.reg x - s.reg y) (noBorrowFlag (s.reg x) (s.reg y)) s)

/-- Difference (rule R148). -/
def execDifference (x y : Reg) (s : State) : Host.Outcome State Fault Refusal :=
  .next (resultThenFlag x (s.reg y - s.reg x) (noBorrowFlag (s.reg y) (s.reg x)) s)

/-- VF, then the shift of what `V[x]` holds after it: the order of the shifts (rules R149, R150). -/
def flagThenShift (x : Reg) (flag : Byte) (shift : Byte → Byte) (s : State) : State :=
  let marked := s.setReg VF flag
  marked.setReg x (shift (marked.reg x))

/-- ShiftRight (rule R149). -/
def execShiftRight (x : Reg) (s : State) : Host.Outcome State Fault Refusal :=
  .next (flagThenShift x (shiftRightFlag (s.reg x)) (fun b => b >>> 1) s)

/-- ShiftLeft (rule R150). -/
def execShiftLeft (x : Reg) (s : State) : Host.Outcome State Fault Refusal :=
  .next (flagThenShift x (shiftLeftFlag (s.reg x)) (fun b => b <<< 1) s)

/-- Rand (rule R151): one fresh byte of the RAND port, a free value (D24, assumption 5). -/
def execRand (x : Reg) (val : Byte) (s : State) : Host.Outcome State Fault Refusal :=
  .next (s.countDraw.setReg x (Config.randDraw s.draws &&& val))

end Sys2Proof.Machine
end

