-- ==== Sys2Proof/Machine/Control.lean ====
section
/-! DEFINITION. The meanings of the control-transfer operations (41_control_flow.md). Each runs with `pc = ia + 2`
(rule R104). -/

namespace Sys2Proof.Machine

/-- Return (rule R120). -/
def execReturn (s : State) : Host.Outcome State Fault Refusal :=
  if s.sp.val = 0 then raise .stackUnderflow (.sp s.sp) s
  else .next (s.dropTop.setPc s.topOfStack)

/-- Jump (rule R121). -/
def execJump (addr : Addr) (s : State) : Host.Outcome State Fault Refusal :=
  .next (s.setPc (addressOperand addr))

/-- Call (rule R122): the pushed value is the advanced `pc`. -/
def execCall (addr : Addr) (s : State) : Host.Outcome State Fault Refusal :=
  if s.sp.val = Config.stackDepth then raise .stackOverflow (.sp s.sp) s
  else .next ((s.push s.pc).setPc (addressOperand addr))

/-- JumpOffset (rule R123): the register is V0, whatever bits 11..8 hold. -/
def execJumpOffset (addr : Addr) (s : State) : Host.Outcome State Fault Refusal :=
  .next (s.setPc (offsetAddress addr (s.reg 0)))

/-- SkipEqVal (rule R124). -/
def execSkipEqVal (x : Reg) (val : Byte) (s : State) : Host.Outcome State Fault Refusal :=
  .next (s.skipIf (decide (s.reg x = val)))

/-- SkipNotEqVal (rule R125). -/
def execSkipNotEqVal (x : Reg) (val : Byte) (s : State) : Host.Outcome State Fault Refusal :=
  .next (s.skipIf (decide (s.reg x ≠ val)))

/-- SkipEq (rule R126). -/
def execSkipEq (x y : Reg) (s : State) : Host.Outcome State Fault Refusal :=
  .next (s.skipIf (decide (s.reg x = s.reg y)))

/-- SkipNotEq (rule R127). -/
def execSkipNotEq (x y : Reg) (s : State) : Host.Outcome State Fault Refusal :=
  .next (s.skipIf (decide (s.reg x ≠ s.reg y)))

end Sys2Proof.Machine
end

