-- ==== Sys2Proof/Machine/Display.lean ====
section
/-! DEFINITION. The framebuffer engine and the meanings of ClearDisplay and DrawSprite (44_display.md). -/

namespace Sys2Proof.Machine

/-- The row of the framebuffer that a row coordinate wraps to (rule R190, C1). -/
def rowIndex (cy : Nat) : Fin 32 := Fin.ofNat 32 cy

/-- The pixel that column `cx` and row `cy` wrap to, each on its own axis (rules R34, R190). -/
def pixel (f : Framebuffer) (cx cy : Nat) : Bool := f[rowIndex cy].getLsbD (cx % Config.fbWidth)

/-- `clear()`: every pixel unset (rule R191). -/
def clearFrame : Framebuffer := Vector.replicate 32 0

/-- One toggle of a drawing, with the collisions so far: a set pixel turned off is one (rules R192, R193). -/
def togglePixel (cx cy : Nat) (d : Framebuffer × Bool) : Framebuffer × Bool :=
  (d.1.set (rowIndex cy) (d.1[rowIndex cy] ^^^ BitVec.twoPow 64 (cx % Config.fbWidth)),
   d.2 || pixel d.1 cx cy)

/-- One byte of a sprite at columns `x0 ..`, the most significant bit leftmost (rule R192). -/
def drawRow (x0 cy : Nat) (b : Byte) (d : Framebuffer × Bool) : Framebuffer × Bool :=
  [0, 1, 2, 3, 4, 5, 6, 7].foldl
    (fun d col => if b.getLsbD (7 - col) then togglePixel (x0 + col) cy d else d) d

/-- The bytes of a sprite, one row each, from row `cy` on (rule R192). -/
def drawRows (x0 cy : Nat) : List Byte → Framebuffer × Bool → Framebuffer × Bool
  | [], d => d
  | b :: bs, d => drawRows x0 (cy + 1) bs (drawRow x0 cy b d)

/-- `draw_sprite(x0, y0, bytes)`: the new framebuffer and the collision. An anchor off the screen draws nothing
(rule R192, C9). -/
def drawSprite (x0 y0 : Byte) (bytes : List Byte) (f : Framebuffer) : Framebuffer × Bool :=
  if x0.toNat ≥ Config.fbWidth ∨ y0.toNat ≥ Config.fbHeight then (f, false)
  else drawRows x0.toNat y0.toNat bytes (f, false)

/-- ClearDisplay (rule R195). -/
def execClearDisplay (s : State) : Host.Outcome State Fault Refusal :=
  .next (s.setFrame clearFrame)

/-- The drawing of DrawSprite: the anchor is read before VF is written (rule R196). -/
def drawAtIndex (x y : Reg) (n : Nat) (s : State) : State :=
  let drawn := drawSprite (s.reg x) (s.reg y) (s.mem.readBytes s.I.toNat n) s.FB
  (s.setFrame drawn.1).setReg VF (collisionFlag drawn.2)

/-- DrawSprite (rule R196): the range check comes before the anchor check (D8). -/
def execDrawSprite (x y : Reg) (n : Nibble) (s : State) : Host.Outcome State Fault Refusal :=
  withRange n.toNat (drawAtIndex x y n.toNat) s

end Sys2Proof.Machine
end

