-- ==== Sys2Proof/Machine/IndexMemory.lean ====
section
/-! DEFINITION. The meanings of the operations on `I` and of the transfers at `I` (43_index_memory.md). None of the
transfers changes `I` (rule R176). -/

namespace Sys2Proof.Machine

/-- SetIndex (rule R170). -/
def execSetIndex (addr : Addr) (s : State) : Host.Outcome State Fault Refusal :=
  .next (s.setIndex (addressOperand addr))

/-- AddIndex (rule R171): no flag. -/
def execAddIndex (x : Reg) (s : State) : Host.Outcome State Fault Refusal :=
  .next (s.setIndex (indexPlus s.I (s.reg x)))

/-- SetIndexCharacter (rule R172). -/
def execSetIndexCharacter (x : Reg) (s : State) : Host.Outcome State Fault Refusal :=
  .next (s.setIndex (glyphAddress (s.reg x)))

/-- The writes of StoreBCD: hundreds, tens, ones (rule R173). -/
def storeDigits (x : Reg) (s : State) : State :=
  s.setMem (s.mem.writeBytes s.I.toNat [hundreds (s.reg x), tens (s.reg x), ones (s.reg x)])

/-- StoreBCD (rule R173). -/
def execStoreBCD (x : Reg) (s : State) : Host.Outcome State Fault Refusal :=
  withRange 3 (storeDigits x) s

/-- The writes of RegDump: `V[0..x]`, `x` included (rule R174). -/
def dumpFirst (x : Reg) (s : State) : State :=
  s.setMem (dumpRegs s.V s.I.toNat (regCount x) s.mem)

/-- RegDump (rule R174). -/
def execRegDump (x : Reg) (s : State) : Host.Outcome State Fault Refusal :=
  withRange (regCount x) (dumpFirst x) s

/-- The writes of RegLoad: `V[0..x]`, `x` included (rule R175). -/
def loadFirst (x : Reg) (s : State) : State :=
  s.setRegs (loadRegs s.mem s.I.toNat (regCount x) s.V)

/-- RegLoad (rule R175). -/
def execRegLoad (x : Reg) (s : State) : Host.Outcome State Fault Refusal :=
  withRange (regCount x) (loadFirst x) s

end Sys2Proof.Machine
end

