-- ==== Sys2Proof/Machine/KeysTimers.lean ====
section
/-! DEFINITION. KeyState and the meanings of the key and timer operations (45_keys_timers.md). -/

namespace Sys2Proof.Machine

/-- `is_pressed(k)` (rule R211). -/
def State.isPressed (s : State) (k : Key) : Bool := s.KEY[k]

/-- `last_released()` (rule R212). -/
def State.lastReleased (s : State) : Option Key := s.kbLastReleased

/-- `arm()` forgets a recorded release (rule R213, D16). -/
def State.arm (s : State) : State := s.setTracker true none

/-- `disarm()` forgets a recorded release (rule R213, D16). -/
def State.disarm (s : State) : State := s.setTracker false none

/-- `set_pressed(k, p)`: a pressed key that is released while the tracker is armed is recorded, the latest one
(rule R210, D15). -/
def setPressed (k : Key) (p : Bool) (s : State) : State :=
  { s with
    KEY := s.KEY.set k p
    kbLastReleased := if s.kbTracking && s.isPressed k && !p then some k else s.kbLastReleased }

/-- A key skip: it faults on an identifier of 16 or more, else it skips on the level of the key
(rules R214, R215, D14). -/
def skipOnKey (x : Reg) (wanted : Bool) (s : State) : Host.Outcome State Fault Refusal :=
  let k := s.reg x
  if k.toNat ≥ 16 then raise .keyOutOfRange (.key k) s
  else .next (s.skipIf (s.isPressed (Fin.ofNat 16 k.toNat) == wanted))

/-- SkipKeyPressed (rule R214). -/
def execSkipKeyPressed (x : Reg) (s : State) : Host.Outcome State Fault Refusal :=
  skipOnKey x true s

/-- SkipKeyNotPressed (rule R215). -/
def execSkipKeyNotPressed (x : Reg) (s : State) : Host.Outcome State Fault Refusal :=
  skipOnKey x false s

/-- Back to the instruction's own address, so that it is fetched again (rules R104, R216). -/
def State.repeatInstruction (s : State) : State := s.setPc (s.pc - 2)

/-- GetKeyPress (rule R216): arm and repeat, repeat, or complete with the released key. -/
def execGetKeyPress (x : Reg) (s : State) : Host.Outcome State Fault Refusal :=
  if s.kbTracking then
    match s.lastReleased with
    | some k => .next (s.disarm.setReg x (BitVec.ofNat 8 k.val))
    | none => .next s.repeatInstruction
  else .next s.arm.repeatInstruction

/-- GetDelayTimer (rule R218). -/
def execGetDelayTimer (x : Reg) (s : State) : Host.Outcome State Fault Refusal :=
  .next (s.setReg x s.DT)

/-- SetDelayTimer (rule R219). -/
def execSetDelayTimer (x : Reg) (s : State) : Host.Outcome State Fault Refusal :=
  .next (s.setDelay (s.reg x))

/-- SetSoundTimer (rule R220). -/
def execSetSoundTimer (x : Reg) (s : State) : Host.Outcome State Fault Refusal :=
  .next (s.setSound (s.reg x))

end Sys2Proof.Machine
end

