-- ==== Sys2Proof/Machine/Dispatch.lean ====
section
/-! DEFINITION. `perform(op)`: one arm per operation (rule R100). -/

namespace Sys2Proof.Machine

/-- The effect of an operation on a state whose `pc` is already advanced past it (rules R100, R104). -/
def exec (i : Instr) (s : State) : Host.Outcome State Fault Refusal :=
  match i with
  | .clearDisplay => Sys2Proof.Machine.execClearDisplay s
  | .ret => Sys2Proof.Machine.execReturn s
  | .jump addr => Sys2Proof.Machine.execJump addr s
  | .call addr => Sys2Proof.Machine.execCall addr s
  | .skipEqVal x val => Sys2Proof.Machine.execSkipEqVal x val s
  | .skipNotEqVal x val => Sys2Proof.Machine.execSkipNotEqVal x val s
  | .skipEq x y => Sys2Proof.Machine.execSkipEq x y s
  | .setVal x val => Sys2Proof.Machine.execSetVal x val s
  | .addVal x val => Sys2Proof.Machine.execAddVal x val s
  | .copy x y => Sys2Proof.Machine.execCopy x y s
  | .or x y => Sys2Proof.Machine.execOr x y s
  | .and x y => Sys2Proof.Machine.execAnd x y s
  | .xor x y => Sys2Proof.Machine.execXor x y s
  | .add x y => Sys2Proof.Machine.execAdd x y s
  | .subtract x y => Sys2Proof.Machine.execSubtract x y s
  | .shiftRight x => Sys2Proof.Machine.execShiftRight x s
  | .difference x y => Sys2Proof.Machine.execDifference x y s
  | .shiftLeft x => Sys2Proof.Machine.execShiftLeft x s
  | .skipNotEq x y => Sys2Proof.Machine.execSkipNotEq x y s
  | .setIndex addr => Sys2Proof.Machine.execSetIndex addr s
  | .jumpOffset addr => Sys2Proof.Machine.execJumpOffset addr s
  | .rand x val => Sys2Proof.Machine.execRand x val s
  | .drawSprite x y n => Sys2Proof.Machine.execDrawSprite x y n s
  | .skipKeyPressed x => Sys2Proof.Machine.execSkipKeyPressed x s
  | .skipKeyNotPressed x => Sys2Proof.Machine.execSkipKeyNotPressed x s
  | .getDelayTimer x => Sys2Proof.Machine.execGetDelayTimer x s
  | .getKeyPress x => Sys2Proof.Machine.execGetKeyPress x s
  | .setDelayTimer x => Sys2Proof.Machine.execSetDelayTimer x s
  | .setSoundTimer x => Sys2Proof.Machine.execSetSoundTimer x s
  | .addIndex x => Sys2Proof.Machine.execAddIndex x s
  | .setIndexCharacter x => Sys2Proof.Machine.execSetIndexCharacter x s
  | .storeBCD x => Sys2Proof.Machine.execStoreBCD x s
  | .regDump x => Sys2Proof.Machine.execRegDump x s
  | .regLoad x => Sys2Proof.Machine.execRegLoad x s

end Sys2Proof.Machine
end

