-- ==== Sys2Proof/Machine/Execute.lean ====
section
/-! DEFINITION. The fetch-decode-execute cycle (40_execute_cycle.md). -/

namespace Sys2Proof.Machine

/-- The default advance past the 2-byte word (rules R100, R103, R104). -/
def State.advance (s : State) : State := s.setPc (s.pc + 2)

/-- `execute` (rule R100): the fetch check, the fetch, the decoder, the default advance, the operation. A fetch past
address 4094 faults without an advance (rule R102). An unrecognized word only advances (rule R103). -/
def execute (s : State) : Host.Outcome State Fault Refusal :=
  match s.wordAt s.pc with
  | none => .next (takeFault s.pc .fetchOutOfRange (.pc s.pc) s)
  | some w =>
    match decode w with
    | .unrecognized => .next s.advance
    | .operation i => exec i s.advance

end Sys2Proof.Machine
end

