-- ==== Sys2Proof/Machine/Scheduler.lean ====
section
/-! DEFINITION. The dual-clock scheduler and the timers (60_exceptions.md section 3), and the strobe view of it
(rule R256). -/

namespace Sys2Proof.Machine

/-- Count a timer down by 1, never below 0 (rule R252). -/
def countDown (b : Byte) : Byte := if b = 0 then 0 else b - 1

/-- Both timers counted down (rules R250, R252). -/
def countTimers (s : State) : State := { s with DT := countDown s.DT, ST := countDown s.ST }

/-- INSTR_PERIOD on the state's time grid: 2 ms (rule R7). -/
def State.instrPeriod (s : State) : Nat := Config.instrPeriodMs * s.unitsPerMs

/-- The timer clock of a tick: when due, count down and re-arm from `now` (rule R250). -/
def timerClock (now : Nat) (s : State) : State :=
  if s.nextTimerDeadline ≤ now then
    { countTimers s with nextTimerDeadline := now + s.timerPeriod }
  else s

/-- Re-arm the instruction clock from `now` (rules R250, R251). -/
def rearmInstruction (now : Nat) (s : State) : State :=
  { s with nextInstructionDeadline := now + s.instrPeriod }

/-- What follows the instruction step in its tick: a fault ends the tick, else the instruction clock is re-armed
and the timer clock has its turn (rules R241, R245, R250). -/
def afterInstruction (now : Nat) (s : State) : State :=
  match s.runState with
  | .halted _ => s
  | .running => timerClock now (rearmInstruction now s)

/-- `tick(now)` (rule R250): at most one instruction, no catch-up (rule R251). A halted block ignores it (rule R248). -/
def tick (now : Nat) (s : State) : Host.Outcome State Fault Refusal :=
  match s.runState with
  | .halted _ => .next s
  | .running =>
    if s.nextInstructionDeadline ≤ now then
      match execute s with
      | .next t => .next (afterInstruction now t)
      | .fault f => .fault f
      | .refused r => .refused r
    else .next (timerClock now s)

/-- The kinds of a tick in the strobe view (rule R256). -/
inductive StrobeKind where
  | idle | instruction | timer | instructionThenTimer
  deriving DecidableEq, Repr

/-- A tick of the strobe view: the steps its kind names, with no clock (rule R256). A fault ends the tick. -/
def strobeTick (k : StrobeKind) (s : State) : Host.Outcome State Fault Refusal :=
  match s.runState, k with
  | .halted _, _ => .next s
  | .running, .idle => .next s
  | .running, .instruction => execute s
  | .running, .timer => .next (countTimers s)
  | .running, .instructionThenTimer =>
    match execute s with
    | .next t =>
      match t.runState with
      | .halted _ => .next t
      | .running => .next (countTimers t)
    | .fault f => .fault f
    | .refused r => .refused r

end Sys2Proof.Machine
end

