-- ==== Sys2Proof/WellFormed.lean ====
section
/-! DEFINITION. The checks on what is written from outside: a line of the assembler syntax (rule R92) and a program
image (rule R285). An `Instr` is well formed by its types, and `Instr.wellFormed` says so through its source line. -/

namespace Sys2Proof

/-- The numbers an operand position takes are those below its bound (rules R73, R92). -/
def OperandKind.bound : OperandKind → Nat
  | .register => 16
  | .address => 4096
  | .immediate => 256
  | .count => 16

/-- The operand positions of each operation (rules R74, R92). `none`: no operation has this name. -/
def operandKinds (mnemonic : String) : Option (List OperandKind) :=
  if mnemonic ∈ ["ClearDisplay", "Return"] then some []
  else if mnemonic ∈ ["Jump", "Call", "SetIndex", "JumpOffset"] then some [.address]
  else if mnemonic ∈ ["SkipEqVal", "SkipNotEqVal", "SetVal", "AddVal", "Rand"] then
    some [.register, .immediate]
  else if mnemonic ∈ ["SkipEq", "SkipNotEq", "Copy", "Or", "And", "Xor", "Add", "Subtract",
      "Difference"] then some [.register, .register]
  else if mnemonic ∈ ["ShiftRight", "ShiftLeft", "SkipKeyPressed", "SkipKeyNotPressed", "GetDelayTimer",
      "GetKeyPress", "SetDelayTimer", "SetSoundTimer", "AddIndex", "SetIndexCharacter", "StoreBCD",
      "RegDump", "RegLoad"] then some [.register]
  else if mnemonic = "DrawSprite" then some [.register, .register, .count]
  else none

/-- Each written number lies below its position's bound, and there are as many as positions. -/
def operandsFit : List OperandKind → List Nat → Bool
  | [], [] => true
  | k :: ks, n :: ns => decide (n < k.bound) && operandsFit ks ns
  | _, _ => false

/-- A line is well formed when its operation exists and its operands fit (rule R92). -/
def SourceLine.wellFormed (l : SourceLine) : Bool :=
  match operandKinds l.mnemonic with
  | none => false
  | some ks => operandsFit ks l.operands

/-- The source line of an operation (rule R92). -/
def Instr.source : Instr → SourceLine
  | .clearDisplay => ⟨"ClearDisplay", []⟩
  | .ret => ⟨"Return", []⟩
  | .jump addr => ⟨"Jump", [addr.toNat]⟩
  | .call addr => ⟨"Call", [addr.toNat]⟩
  | .skipEqVal x val => ⟨"SkipEqVal", [x.val, val.toNat]⟩
  | .skipNotEqVal x val => ⟨"SkipNotEqVal", [x.val, val.toNat]⟩
  | .skipEq x y => ⟨"SkipEq", [x.val, y.val]⟩
  | .setVal x val => ⟨"SetVal", [x.val, val.toNat]⟩
  | .addVal x val => ⟨"AddVal", [x.val, val.toNat]⟩
  | .copy x y => ⟨"Copy", [x.val, y.val]⟩
  | .or x y => ⟨"Or", [x.val, y.val]⟩
  | .and x y => ⟨"And", [x.val, y.val]⟩
  | .xor x y => ⟨"Xor", [x.val, y.val]⟩
  | .add x y => ⟨"Add", [x.val, y.val]⟩
  | .subtract x y => ⟨"Subtract", [x.val, y.val]⟩
  | .shiftRight x => ⟨"ShiftRight", [x.val]⟩
  | .difference x y => ⟨"Difference", [x.val, y.val]⟩
  | .shiftLeft x => ⟨"ShiftLeft", [x.val]⟩
  | .skipNotEq x y => ⟨"SkipNotEq", [x.val, y.val]⟩
  | .setIndex addr => ⟨"SetIndex", [addr.toNat]⟩
  | .jumpOffset addr => ⟨"JumpOffset", [addr.toNat]⟩
  | .rand x val => ⟨"Rand", [x.val, val.toNat]⟩
  | .drawSprite x y n => ⟨"DrawSprite", [x.val, y.val, n.toNat]⟩
  | .skipKeyPressed x => ⟨"SkipKeyPressed", [x.val]⟩
  | .skipKeyNotPressed x => ⟨"SkipKeyNotPressed", [x.val]⟩
  | .getDelayTimer x => ⟨"GetDelayTimer", [x.val]⟩
  | .getKeyPress x => ⟨"GetKeyPress", [x.val]⟩
  | .setDelayTimer x => ⟨"SetDelayTimer", [x.val]⟩
  | .setSoundTimer x => ⟨"SetSoundTimer", [x.val]⟩
  | .addIndex x => ⟨"AddIndex", [x.val]⟩
  | .setIndexCharacter x => ⟨"SetIndexCharacter", [x.val]⟩
  | .storeBCD x => ⟨"StoreBCD", [x.val]⟩
  | .regDump x => ⟨"RegDump", [x.val]⟩
  | .regLoad x => ⟨"RegLoad", [x.val]⟩

/-- An operation is well formed when its source line is. Its types make this hold of every operation
(Sys2Proof/Laws/PerInstr.lean). -/
def Instr.wellFormed (i : Instr) : Bool := i.source.wellFormed

/-- The operation a line stands for, `none` for an ill-formed line (rule R92). -/
def assemble (l : SourceLine) : Option Instr :=
  if l.wellFormed then
    match l.mnemonic, l.operands with
    | "ClearDisplay", [] => some .clearDisplay
    | "Return", [] => some .ret
    | "Jump", [a] => some (.jump (BitVec.ofNat 12 a))
    | "Call", [a] => some (.call (BitVec.ofNat 12 a))
    | "SkipEqVal", [x, b] => some (.skipEqVal (Fin.ofNat 16 x) (BitVec.ofNat 8 b))
    | "SkipNotEqVal", [x, b] => some (.skipNotEqVal (Fin.ofNat 16 x) (BitVec.ofNat 8 b))
    | "SkipEq", [x, y] => some (.skipEq (Fin.ofNat 16 x) (Fin.ofNat 16 y))
    | "SetVal", [x, b] => some (.setVal (Fin.ofNat 16 x) (BitVec.ofNat 8 b))
    | "AddVal", [x, b] => some (.addVal (Fin.ofNat 16 x) (BitVec.ofNat 8 b))
    | "Copy", [x, y] => some (.copy (Fin.ofNat 16 x) (Fin.ofNat 16 y))
    | "Or", [x, y] => some (.or (Fin.ofNat 16 x) (Fin.ofNat 16 y))
    | "And", [x, y] => some (.and (Fin.ofNat 16 x) (Fin.ofNat 16 y))
    | "Xor", [x, y] => some (.xor (Fin.ofNat 16 x) (Fin.ofNat 16 y))
    | "Add", [x, y] => some (.add (Fin.ofNat 16 x) (Fin.ofNat 16 y))
    | "Subtract", [x, y] => some (.subtract (Fin.ofNat 16 x) (Fin.ofNat 16 y))
    | "ShiftRight", [x] => some (.shiftRight (Fin.ofNat 16 x))
    | "Difference", [x, y] => some (.difference (Fin.ofNat 16 x) (Fin.ofNat 16 y))
    | "ShiftLeft", [x] => some (.shiftLeft (Fin.ofNat 16 x))
    | "SkipNotEq", [x, y] => some (.skipNotEq (Fin.ofNat 16 x) (Fin.ofNat 16 y))
    | "SetIndex", [a] => some (.setIndex (BitVec.ofNat 12 a))
    | "JumpOffset", [a] => some (.jumpOffset (BitVec.ofNat 12 a))
    | "Rand", [x, b] => some (.rand (Fin.ofNat 16 x) (BitVec.ofNat 8 b))
    | "DrawSprite", [x, y, n] => some (.drawSprite (Fin.ofNat 16 x) (Fin.ofNat 16 y) (BitVec.ofNat 4 n))
    | "SkipKeyPressed", [x] => some (.skipKeyPressed (Fin.ofNat 16 x))
    | "SkipKeyNotPressed", [x] => some (.skipKeyNotPressed (Fin.ofNat 16 x))
    | "GetDelayTimer", [x] => some (.getDelayTimer (Fin.ofNat 16 x))
    | "GetKeyPress", [x] => some (.getKeyPress (Fin.ofNat 16 x))
    | "SetDelayTimer", [x] => some (.setDelayTimer (Fin.ofNat 16 x))
    | "SetSoundTimer", [x] => some (.setSoundTimer (Fin.ofNat 16 x))
    | "AddIndex", [x] => some (.addIndex (Fin.ofNat 16 x))
    | "SetIndexCharacter", [x] => some (.setIndexCharacter (Fin.ofNat 16 x))
    | "StoreBCD", [x] => some (.storeBCD (Fin.ofNat 16 x))
    | "RegDump", [x] => some (.regDump (Fin.ofNat 16 x))
    | "RegLoad", [x] => some (.regLoad (Fin.ofNat 16 x))
    | _, _ => none
  else none

/-- An image loads only when it fits between the program base and the end of memory (rule R285). -/
def imageFits (image : List Byte) : Bool := decide (image.length ≤ Config.maxImage)

end Sys2Proof
end

