-- ==== Sys2Proof/Machine/Ports.lean ====
section
/-! DEFINITION. The ports of the block and the moves of the host (60_exceptions.md section 4, 70_reset_and_hazards.md
section 1). -/

namespace Sys2Proof.Machine

/-- PIXEL: the pixel with row-major index `i` (rules R34, R265). -/
def pixelPort (s : State) (i : Fin 2048) : Bool := pixel s.FB (i.val % 64) (i.val / 64)

/-- SOUND: `ST > 0`, Halted included (rules R39, R248, R266). -/
def soundOut (s : State) : Bool := decide (s.ST.toNat > 0)

/-- STATUS: the run state with its fault record (rules R243, R262). -/
def statusPort (s : State) : RunState := s.runState

/-- The state that a reset with image `image` leaves at time `t0` (rules R281 to R284): the reset state, with the
glyphs at 0, the image at 512 and both deadlines at `t0`. The parameters and the host's coming moves stay. -/
def resetWith (image : List Byte) (t0 : Nat) (s : State) : State :=
  { State.reset with
    mem := (State.reset.mem.writeBytes 0 s.glyphs.toList).writeBytes Config.programBase image
    nextInstructionDeadline := t0
    nextTimerDeadline := t0
    hostMoves := s.hostMoves
    lastNow := t0
    unitsPerMs := s.unitsPerMs
    timerPeriod := s.timerPeriod
    glyphs := s.glyphs
    draws := s.draws }

/-- LOAD: a reset, refused when the image is too long (rules R268, R280, R285). -/
def load (image : List Byte) (t0 : Nat) (s : State) : Host.Outcome State Fault Refusal :=
  if imageFits image then .next (resetWith image t0 s) else .refused .imageTooLong

/-- TICK: the timestamps of the host do not decrease (rules R255, R263, R269). -/
def hostTick (now : Nat) (s : State) : Host.Outcome State Fault Refusal :=
  if now < s.lastNow then .fault .hostClockBackwards else tick now { s with lastNow := now }

/-- One move of the host, an atomic step (rules R44, R55, R262 to R264). -/
def hostMove (m : HostMove) (s : State) : Host.Outcome State Fault Refusal :=
  match m with
  | .tick now => hostTick now s
  | .keyEvent k p => .next (setPressed k p s)
  | .reset image t0 => load image t0 s

/-- A run of the timed block: ticks at given timestamps, with key events between them (rules R250, R256). -/
def timedRun : List (Nat ⊕ Key × Bool) → State → Host.Outcome State Fault Refusal
  | [], s => .next s
  | .inr (k, p) :: ms, s => timedRun ms (setPressed k p s)
  | .inl now :: ms, s =>
    match tick now s with
    | .next t => timedRun ms t
    | .fault f => .fault f
    | .refused r => .refused r

/-- A run of the strobe view: ticks of given kinds, with key events between them (rule R256). -/
def strobeRun : List (StrobeKind ⊕ Key × Bool) → State → Host.Outcome State Fault Refusal
  | [], s => .next s
  | .inr (k, p) :: ms, s => strobeRun ms (setPressed k p s)
  | .inl kind :: ms, s =>
    match strobeTick kind s with
    | .next t => strobeRun ms t
    | .fault f => .fault f
    | .refused r => .refused r

/-- The timestamp of a host that lists no move: it calls `tick` when the next instruction is due, the cadence rule
R263 recommends. DESIGN CHOICE, assumption 6. -/
def dueNow (s : State) : Nat := if s.lastNow ≤ s.nextInstructionDeadline then s.nextInstructionDeadline else s.lastNow

/-- The next move of the host, taken off its list. -/
def nextMove (s : State) : HostMove × State :=
  match s.hostMoves with
  | [] => (.tick (dueNow s), s)
  | m :: ms => (m, { s with hostMoves := ms })

/-- Where the next fetch reads its word, for an instruction placed from outside: `pc`, or the program base when no word
can be fetched at `pc`. -/
def fetchPlace (s : State) : Halfword := if s.pc.toNat + 2 ≤ Config.memSize then s.pc else 512

/-- `s` with the word `w` where the next step fetches, and that next step an instruction tick: the block runs and the
host lists no move, so that the tick comes when the instruction is due. -/
def placeWord (w : Halfword) (s : State) : State :=
  { s with
    pc := fetchPlace s
    mem := s.mem.writeBytes (fetchPlace s).toNat [highByte w, lowByte w]
    runState := .running
    hostMoves := [] }

end Sys2Proof.Machine
end

