-- ==== Sys2Proof/Machine/Step.lean ====
section
/-! DEFINITION. One step of the machine: one move of the host (rule R44). -/

namespace Sys2Proof.Machine

/-- A step takes the host's next move (rules R44, R262): a tick, a key event or a reset. -/
def step (s : State) : Host.Outcome State Fault Refusal :=
  hostMove (nextMove s).1 (nextMove s).2

/-- `s` with an instruction word placed where the next step fetches it, so that this step runs it (`placeWord`). -/
def State.withFetchWord (s : State) (nbits w : Nat) : State :=
  placeWord (BitVec.ofNat 16 (w % 2 ^ nbits)) s

end Sys2Proof.Machine
end

