-- ==== Sys2Proof/Safety.lean ====
section
/-! DEFINITION. The terms the claims use: the invariants, the fault table, the write table of the operations, and the
pixels a sprite covers. -/

namespace Sys2Proof.Machine

/-! ## Invariants -/

/-- The invariants of rule R43, on the model's `lastNow` for "the latest `now` seen". -/
abbrev BlockInv (s : State) : Prop :=
  s.sp.val ≤ 16 ∧
  (s.kbTracking = false → s.kbLastReleased = none) ∧
  s.nextInstructionDeadline ≤ s.lastNow + 2 * s.unitsPerMs ∧
  s.nextTimerDeadline ≤ s.lastNow + s.timerPeriod

/-- The bounds of rules R27 and R109: no operation makes `pc` wrap, and a saved `pc` is an address after an
instruction. -/
abbrev PcInv (s : State) : Prop :=
  s.pc.toNat ≤ 0x10FE ∧ ∀ j : Fin 16, s.stack[j].toNat ≤ 4096

/-! ## Faults -/

/-- The fault of an access to `len` bytes at `I` (rules R57, R242). -/
def rangeFault (s : State) (len : Nat) : Option (Cause × FaultInfo) :=
  if s.I.toNat + len > 4096 then some (.memOutOfRange, .access s.I len) else none

/-- The fault of a key skip on `V[x]` (rules R214, R215, R242). -/
def keyFault (s : State) (x : Reg) : Option (Cause × FaultInfo) :=
  if s.V[x].toNat ≥ 16 then some (.keyOutOfRange, .key s.V[x]) else none

/-- The rows of the fault table that an operation raises: its condition, its cause and what the record keeps
(rules R242, R244). -/
def faultOf (i : Instr) (s : State) : Option (Cause × FaultInfo) :=
  match i with
  | .call _ => if s.sp = 16 then some (.stackOverflow, .sp 16) else none
  | .ret => if s.sp = 0 then some (.stackUnderflow, .sp 0) else none
  | .drawSprite _ _ n => rangeFault s n.toNat
  | .storeBCD _ => rangeFault s 3
  | .regDump x | .regLoad x => rangeFault s (x.val + 1)
  | .skipKeyPressed x | .skipKeyNotPressed x => keyFault s x
  | .clearDisplay | .jump _ | .skipEqVal _ _ | .skipNotEqVal _ _ | .skipEq _ _ | .setVal _ _ | .addVal _ _
  | .copy _ _ | .or _ _ | .and _ _ | .xor _ _ | .add _ _ | .subtract _ _ | .shiftRight _ | .difference _ _
  | .shiftLeft _ | .skipNotEq _ _ | .setIndex _ | .jumpOffset _ | .rand _ _ | .getDelayTimer _
  | .getKeyPress _ | .setDelayTimer _ | .setSoundTimer _ | .addIndex _ | .setIndexCharacter _ => none

/-- The fault an execute step meets: of the fetch, or of the operation fetched (rules R242, R244). -/
def executeFault (s : State) : Option (Cause × FaultInfo) :=
  if s.pc.toNat > 4094 then some (.fetchOutOfRange, .pc s.pc)
  else match decode (halfwordOfBytes (s.mem.read s.pc.toNat) (s.mem.read (s.pc.toNat + 1))) with
    | .unrecognized => none
    | .operation i => faultOf i s

/-- The word an execute step fetches, none when the fetch faults (rules R102, R243). -/
def fetchedWord (s : State) : Option Halfword :=
  if s.pc.toNat > 4094 then none
  else some (halfwordOfBytes (s.mem.read s.pc.toNat) (s.mem.read (s.pc.toNat + 1)))

/-- `s` after the operation at `pc - 2` has raised a fault: `pc` is that address again, the block is Halted with the
record, and nothing else has changed (rules R105, R241, R243). -/
def haltedBy (cause : Cause) (info : FaultInfo) (s : State) : State :=
  { s with
    pc := s.pc - 2
    runState := .halted
      { cause := cause, pc := s.pc - 2, word := fetchedWord { s with pc := s.pc - 2 }, info := info } }

/-! ## What an operation writes -/

/-- The column "writes" of the register table (rule R23): does the operation write register `r`? -/
def writesReg (i : Instr) (r : Reg) : Bool :=
  match i with
  | .setVal x _ | .addVal x _ | .copy x _ | .or x _ | .and x _ | .xor x _ | .rand x _ | .getDelayTimer x
  | .getKeyPress x => r == x
  | .add x _ | .subtract x _ | .difference x _ | .shiftRight x | .shiftLeft x => r == x || r == 15
  | .drawSprite _ _ _ => r == 15
  | .regLoad x => decide (r ≤ x)
  | .clearDisplay | .ret | .jump _ | .call _ | .skipEqVal _ _ | .skipNotEqVal _ _ | .skipEq _ _ | .skipNotEq _ _
  | .setIndex _ | .jumpOffset _ | .skipKeyPressed _ | .skipKeyNotPressed _ | .setDelayTimer _
  | .setSoundTimer _ | .addIndex _ | .setIndexCharacter _ | .storeBCD _ | .regDump _ => false

/-- The operands that the fields of a word give to operand positions of these kinds (rules R71, R72). -/
def fieldOperands (w : Halfword) : List OperandKind → List Nat
  | [.address] => [w.toNat % 4096]
  | [.register] => [w.toNat / 256 % 16]
  | [.register, .immediate] => [w.toNat / 256 % 16, w.toNat % 256]
  | [.register, .register] => [w.toNat / 256 % 16, w.toNat / 16 % 16]
  | [.register, .register, .count] => [w.toNat / 256 % 16, w.toNat / 16 % 16, w.toNat % 16]
  | _ => []

/-! ## Sprites -/

/-- Some 1 bit of the sprite, drawn at column `x0` and row `y0`, falls on the pixel of column `px` and row `py`,
each coordinate wrapped on its own axis, the most significant bit leftmost (rules R190, R192). -/
def spriteCovers (x0 y0 : Nat) (bytes : List Byte) (px py : Nat) : Prop :=
  ∃ row col, row < bytes.length ∧ col < 8 ∧ (bytes.getD row 0).getLsbD (7 - col) = true ∧
    px = (x0 + col) % 64 ∧ py = (y0 + row) % 32

/-! ## Clocks -/

/-- The two states agree in everything but the clocks: the deadlines (rule R256). -/
def SameButDeadlines (s t : State) : Prop :=
  t = { s with
        nextInstructionDeadline := t.nextInstructionDeadline
        nextTimerDeadline := t.nextTimerDeadline }

/-- The timer clock of a tick at `now`, in numbers: when due, each timer one less but not below 0, and the deadline
re-armed from `now` (rules R250, R252). -/
def timersAt (now : Nat) (s : State) : State :=
  if now ≥ s.nextTimerDeadline then
    { s with
      DT := BitVec.ofNat 8 (s.DT.toNat - 1)
      ST := BitVec.ofNat 8 (s.ST.toNat - 1)
      nextTimerDeadline := now + s.timerPeriod }
  else s

end Sys2Proof.Machine
end

