-- ==== Sys2Proof/Certificates/Slice0/Obligations.lean ====
section
/-! DEFINITION. The statements for the provers. Each docstring names the rule a statement formalises. A statement on
`exec` has `s.pc = ia + 2`, the advanced program counter (rule R104). Frames are written
`t = { s with … }`: every element not named there, every byte of memory included, is what it was. The words in
them follow the patterns of rule R75, which the spec took from general knowledge (93_implementation_defined.md G1;
assumption 1). -/

section

open Sys2Proof Sys2Proof.Machine

/-! ## Encoding -/

/-- At least one word for each of the 16 families that `op1` selects (rule R71), written out from the patterns of rule
R75, decodes to the operation the spec's decoder vectors give for it, and two words of no row to Unrecognized
(95_test_vectors.md sections 2.1 and 2.2). -/
def Obligations.WordsOfEveryFamilyDecode : Prop :=
  decode 0x00E0 = .operation .clearDisplay ∧
  decode 0x1ABC = .operation (.jump 0xABC) ∧
  decode 0x2DEF = .operation (.call 0xDEF) ∧
  decode 0x3A5C = .operation (.skipEqVal 0xA 0x5C) ∧
  decode 0x4B12 = .operation (.skipNotEqVal 0xB 0x12) ∧
  decode 0x5CD0 = .operation (.skipEq 0xC 0xD) ∧
  decode 0x6E7F = .operation (.setVal 0xE 0x7F) ∧
  decode 0x7123 = .operation (.addVal 0x1 0x23) ∧
  decode 0x8AB5 = .operation (.subtract 0xA 0xB) ∧
  decode 0x80F6 = .operation (.shiftRight 0) ∧
  decode 0x9340 = .operation (.skipNotEq 0x3 0x4) ∧
  decode 0xA123 = .operation (.setIndex 0x123) ∧
  decode 0xB456 = .operation (.jumpOffset 0x456) ∧
  decode 0xC7F0 = .operation (.rand 0x7 0xF0) ∧
  decode 0xD12F = .operation (.drawSprite 1 2 0xF) ∧
  decode 0xE6A1 = .operation (.skipKeyNotPressed 6) ∧
  decode 0xFF65 = .operation (.regLoad 0xF) ∧
  decode 0x0123 = .unrecognized ∧
  decode 0x8008 = .unrecognized

/-- Decoding the word of any operation gives that operation back, with every operand (rules R74, R75, R92). -/
def Obligations.DecodeOfEncodeIsTheOperation : Prop :=
  ∀ i : Instr, decode (encode i) = .operation i

/-- A recognized word is the word of its operation, but for the field `y` of a shift, which no operation reads
(rules R76, R78). -/
def Obligations.EncodeOfDecodeLosesOnlyTheShiftField : Prop :=
  ∀ (w : Halfword) (i : Instr), decode w = .operation i →
    encode i = (match i with
      | .shiftRight _ | .shiftLeft _ => w &&& 0xFF0F
      | _ => w)

/-- The three decoding properties of rule R90: a row's words decode to the row's operation with the operands of its
fields, no word satisfies two rows, and a word of no row is Unrecognized. -/
def Obligations.DecoderIsTheOpcodeTable : Prop :=
  (∀ row ∈ opcodeTable, ∀ w, rowSelects row w = true →
    ∃ i ks, decode w = .operation i ∧ operandKinds row.1 = some ks ∧
      i.source = ⟨row.1, fieldOperands w ks⟩) ∧
  (∀ row ∈ opcodeTable, ∀ row' ∈ opcodeTable, ∀ w,
    rowSelects row w = true → rowSelects row' w = true → row = row') ∧
  (∀ w, (∀ row ∈ opcodeTable, rowSelects row w = false) → decode w = .unrecognized)

/-! ## The execute cycle, the scheduler, the step -/

/-- The fetch check and the unrecognized word (rules R102, R103), and the default advance before an operation:
the word at `pc` is big-endian, `pc` may be odd, and `pc > 4094` faults without an advance. -/
def Obligations.ExecuteFetchesAdvancesAndPerforms : Prop :=
  ∀ s : State,
    (s.pc.toNat > 4094 →
      execute s = .next { s with
        runState := .halted { cause := .fetchOutOfRange, pc := s.pc, word := none, info := .pc s.pc } }) ∧
    (s.pc.toNat ≤ 4094 → ∀ w : Halfword,
      w.toNat = (s.mem.read s.pc.toNat).toNat * 256 + (s.mem.read (s.pc.toNat + 1)).toNat →
      (decode w = .unrecognized → execute s = .next { s with pc := s.pc + 2 }) ∧
      (∀ i, decode w = .operation i → execute s = exec i { s with pc := s.pc + 2 }))

/-- A step whose host move is a due tick of a running block runs the operation that the bytes at `pc` decode to, on the
state with `pc` advanced (rule R100). After the operation the instruction clock is re-armed from `now` and the timer
clock has its turn, unless the operation halted the block (rule R250). MODEL's choice: a step takes its move off the
list `hostMoves` (assumption 6) and notes the timestamp in `lastNow` (assumption 7). -/
def Obligations.StepRunsTheDecodedOperation : Prop :=
  ∀ (s t : State) (now : Nat) (moves : List HostMove) (i : Instr),
    s.hostMoves = .tick now :: moves → s.lastNow ≤ now → s.runState = .running →
    s.nextInstructionDeadline ≤ now → s.pc.toNat ≤ 4094 →
    decode (halfwordOfBytes (s.mem.read s.pc.toNat) (s.mem.read (s.pc.toNat + 1))) = .operation i →
    exec i { s with pc := s.pc + 2, hostMoves := moves, lastNow := now } = .next t →
    (t.runState = .running →
      step s = .next (timersAt now { t with nextInstructionDeadline := now + 2 * t.unitsPerMs })) ∧
    (t.runState ≠ .running → step s = .next t)

/-- MODEL's choice (assumption 6): with no move listed, the host calls `tick` when the next instruction is due, or at the
latest timestamp when that is later. -/
def Obligations.StepWithNoListedMoveTicksWhenDue : Prop :=
  ∀ s : State, s.hostMoves = [] →
    step s = step { s with hostMoves := [.tick (max s.lastNow s.nextInstructionDeadline)] }

/-- The scheduler of rule R250, whole: a halted block ignores a tick; an instruction runs when its deadline is reached
and a fault ends the tick; the timer clock comes after it; each deadline is re-armed from `now`. -/
def Obligations.TickFollowsTheTwoClocks : Prop :=
  ∀ (now : Nat) (s : State),
    (∀ r, s.runState = .halted r → tick now s = .next s) ∧
    (s.runState = .running → now < s.nextInstructionDeadline → tick now s = .next (timersAt now s)) ∧
    (s.runState = .running → now ≥ s.nextInstructionDeadline → ∀ t, execute s = .next t →
      (∀ r, t.runState = .halted r → tick now s = .next t) ∧
      (t.runState = .running →
        tick now s = .next (timersAt now { t with nextInstructionDeadline := now + 2 * t.unitsPerMs })))

/-- Every run of the timestamped scheduler, at any timestamps and with key events between the ticks, is a run of the
strobe view with the same key events at the same places, up to the deadlines (rule R256). -/
def Obligations.StrobeViewAdmitsEveryTimedRun : Prop :=
  ∀ (moves : List (Nat ⊕ Key × Bool)) (s t : State), timedRun moves s = .next t →
    ∃ (strobes : List (StrobeKind ⊕ Key × Bool)) (u : State),
      strobes.map Sum.getRight? = moves.map Sum.getRight? ∧
      strobeRun strobes s = .next u ∧ SameButDeadlines u t

/-- A step stops in two cases only: the host's clock runs backwards, or the image of a reset is too long. Which of the
host's errors stop the model is its own choice (assumption 7), and so is the list
of moves that says which comes next (assumption 6). -/
def Obligations.StepStopsOnlyOnTheHostsErrors : Prop :=
  ∀ s : State,
    (∃ t, step s = .next t) ∨
    (step s = .fault .hostClockBackwards ∧ ∃ now, (nextMove s).1 = .tick now ∧ now < s.lastNow) ∨
    (step s = .refused .imageTooLong ∧ ∃ image t0, (nextMove s).1 = .reset image t0 ∧ image.length > 3584)

/-- `exec` answers a next state for each of the 34 operations in every state, so that none stops the model. That state is
Halted where the operation meets its fault condition (rule R242): taking a fault is a next state (rule R241). Where an
operation completes with its own effect, the statements on it say. -/
def Obligations.EveryOperationAnswersANextState : Prop :=
  ∀ (i : Instr) (s : State), ∃ t, exec i s = .next t

/-! ## Faults and Halted -/

/-- Faults are precise (rule R105): after a fault the state is that before the step, except `run_state`, and the record
holds the cause, the instruction's address, the word fetched (none for a fetch fault) and the information. -/
def Obligations.FaultsArePrecise : Prop :=
  ∀ (s t : State) (r : FaultRecord), s.runState = .running → execute s = .next t → t.runState = .halted r →
    t = { s with runState := .halted r } ∧
    ∃ cause info, executeFault s = some (cause, info) ∧
      r = { cause := cause, pc := s.pc, word := fetchedWord s, info := info }

/-- The fault table (rules R242, R243): an execute step halts exactly on the conditions of the table, with the cause, the
information and the code the table gives. -/
def Obligations.FaultsAreExactlyTheTable : Prop :=
  (∀ s : State, s.runState = .running → ∃ t, execute s = .next t ∧
    t.runState = (match executeFault s with
      | none => .running
      | some (cause, info) =>
        .halted { cause := cause, pc := s.pc, word := fetchedWord s, info := info })) ∧
  [Cause.fetchOutOfRange, .stackOverflow, .stackUnderflow, .memOutOfRange, .keyOutOfRange].map Cause.code
    = [1, 2, 3, 4, 5]

/-- A Halted block executes nothing and only a reset restarts it (rules R247, R248): any other move of the host leaves all
but KeyState and the model's own record of the host as it was. MODEL's choice: a step takes its move off the list
`hostMoves` (assumption 6) and notes a timestamp in `lastNow` (assumption 7). -/
def Obligations.OnlyResetLeavesHalted : Prop :=
  (∀ (s t : State) (r : FaultRecord), s.runState = .halted r →
    (∀ image t0, (nextMove s).1 ≠ .reset image t0) → step s = .next t →
    t = { s with
          KEY := t.KEY
          kbLastReleased := t.kbLastReleased
          hostMoves := t.hostMoves
          lastNow := t.lastNow }) ∧
  (∀ (s : State) (image : List Byte) (t0 : Nat) (moves : List HostMove),
    s.hostMoves = .reset image t0 :: moves → image.length ≤ 3584 →
    ∃ t, step s = .next t ∧ t.runState = .running ∧ t.hostMoves = moves)

/-! ## Reset, ports, timers -/

/-- The reset sequence (rules R281, R285): every element's value, with the glyphs (the parameter GLYPHS)
at 0, the image at 512 and 0 in every other byte; an image longer than 3584 bytes is refused. -/
def Obligations.ResetSetsTheWholeState : Prop :=
  ∀ (image : List Byte) (t0 : Nat) (s : State),
    (image.length > 3584 → load image t0 s = .refused .imageTooLong) ∧
    (image.length ≤ 3584 → ∃ t, load image t0 s = .next t ∧
      (∀ r : Reg, t.V[r] = 0) ∧ t.I = 0 ∧ t.pc = 512 ∧ t.sp = 0 ∧ (∀ j : Fin 16, t.stack[j] = 0) ∧
      (∀ a : Fin 80, t.mem.read a.val = s.glyphs[a]) ∧
      (∀ a, a < image.length → t.mem.read (512 + a) = image.getD a 0) ∧
      (∀ a, 80 ≤ a → a < 512 ∨ 512 + image.length ≤ a → t.mem.read a = 0) ∧
      t.DT = 0 ∧ t.ST = 0 ∧ (∀ px py, pixel t.FB px py = false) ∧ (∀ k : Key, t.KEY[k] = false) ∧
      t.kbTracking = false ∧ t.kbLastReleased = none ∧
      t.nextInstructionDeadline = t0 ∧ t.nextTimerDeadline = t0 ∧ t.runState = .running)

/-- A step whose host move is a reset is that reset (rules R44, R268, R281): it answers what `load` answers on the state
with the move taken off, memory, registers and deadlines included (`ResetSetsTheWholeState` says what those are).
MODEL's choice: the moves are a list (assumption 6), the latest timestamp becomes `t0` (assumption 7), and the
parameters and the count of the draws stay (assumptions 2 to 5). -/
def Obligations.AResetMoveAnswersTheLoad : Prop :=
  ∀ (image : List Byte) (t0 : Nat) (moves : List HostMove) (s : State), s.hostMoves = .reset image t0 :: moves →
    step s = load image t0 { s with hostMoves := moves } ∧
    (image.length > 3584 → step s = .refused .imageTooLong) ∧
    (image.length ≤ 3584 → ∃ t, step s = .next t ∧ t.hostMoves = moves ∧ t.lastNow = t0 ∧
      t.unitsPerMs = s.unitsPerMs ∧ t.timerPeriod = s.timerPeriod ∧ t.glyphs = s.glyphs ∧ t.draws = s.draws)

/-- A key event (rule R210): the level is written, and a key that goes from pressed to released while the tracker is armed
replaces the last released key. It is a step of its own, in any run state (rule R264). MODEL's choice: the step takes
the event off the list `hostMoves` (assumption 6). -/
def Obligations.KeyEventRecordsAReleaseWhileArmed : Prop :=
  ∀ (k : Key) (p : Bool) (s : State), ∃ t,
    setPressed k p s = t ∧ t.KEY[k] = p ∧ (∀ j : Key, j ≠ k → t.KEY[j] = s.KEY[j]) ∧
    t.kbLastReleased =
      (if s.kbTracking = true ∧ s.KEY[k] = true ∧ p = false then some k else s.kbLastReleased) ∧
    t = { s with KEY := t.KEY, kbLastReleased := t.kbLastReleased } ∧
    ∀ moves, step { s with hostMoves := .keyEvent k p :: moves } = .next { t with hostMoves := moves }

/-- The PIXEL and SOUND ports (rules R265, R266): the pixel with row-major index `i` is that of column `i mod 64` and row
`i / 64`, and the sound output is `ST > 0`. -/
def Obligations.PortsReadThePixelAndTheSound : Prop :=
  ∀ s : State,
    (∀ px py, ∀ h : px + 64 * py < 2048, px < 64 → pixelPort s ⟨px + 64 * py, h⟩ = pixel s.FB px py) ∧
    (soundOut s = true ↔ s.ST ≠ 0)

/-- The delay timer rises only where SetDelayTimer runs (rule R29: it is monotonically non-increasing except when
explicitly set by an instruction). MODEL's choice: the host's next move is data (`nextMove`, assumption 6). -/
def Obligations.DelayTimerRisesOnlyBySetDelayTimer : Prop :=
  ∀ s t : State, step s = .next t → s.DT.toNat < t.DT.toNat →
    s.runState = .running ∧
    ∃ now x, (nextMove s).1 = .tick now ∧
      decode (halfwordOfBytes (s.mem.read s.pc.toNat) (s.mem.read (s.pc.toNat + 1))) =
        .operation (.setDelayTimer x)

/-- In a tick in which both clocks are due, the instruction comes first: a timer set there is counted down before the
tick ends, and GetDelayTimer reads the delay timer as it was before (rules R253, R290). -/
def Obligations.ATimerSetInADueTickIsCountedDownAtOnce : Prop :=
  ∀ (now : Nat) (x : Reg) (i : Instr) (s : State), s.runState = .running → s.nextInstructionDeadline ≤ now →
    s.nextTimerDeadline ≤ now → s.pc.toNat ≤ 4094 →
    decode (halfwordOfBytes (s.mem.read s.pc.toNat) (s.mem.read (s.pc.toNat + 1))) = .operation i →
    (i = .setDelayTimer x → ∃ t, tick now s = .next t ∧ t.DT.toNat = s.V[x].toNat - 1 ∧
      t.ST.toNat = s.ST.toNat - 1) ∧
    (i = .setSoundTimer x → ∃ t, tick now s = .next t ∧ t.ST.toNat = s.V[x].toNat - 1 ∧
      t.DT.toNat = s.DT.toNat - 1) ∧
    (i = .getDelayTimer x → ∃ t, tick now s = .next t ∧ t.V[x] = s.DT ∧ t.DT.toNat = s.DT.toNat - 1)

/-! ## Control transfer -/

/-- Return (rule R120). -/
def Obligations.ReturnPopsThePc : Prop :=
  ∀ s : State,
    decode (0x00EE : Halfword) = .operation .ret ∧
    (s.sp ≠ 0 → ∃ t, exec .ret s = .next t ∧ t.sp.val + 1 = s.sp.val ∧
      (∀ j : Fin 16, j.val + 1 = s.sp.val → t.pc = s.stack[j]) ∧ t = { s with pc := t.pc, sp := t.sp }) ∧
    (s.sp = 0 → exec .ret s = .next (haltedBy .stackUnderflow (.sp 0) s))

/-- Jump (rule R121). -/
def Obligations.JumpSetsThePc : Prop :=
  ∀ (addr : Addr) (s : State),
    decode (0x1#4 ++ addr) = .operation (.jump addr) ∧
    ∃ t, exec (.jump addr) s = .next t ∧ t.pc.toNat = addr.toNat ∧ t = { s with pc := t.pc } ∧
      (t.pc.toNat > 4094 ↔ addr = 0xFFF)

/-- Call (rule R122): the entry `sp` takes the advanced `pc`, and a full stack faults with nothing pushed. -/
def Obligations.CallPushesTheAdvancedPc : Prop :=
  ∀ (addr : Addr) (s : State),
    decode (0x2#4 ++ addr) = .operation (.call addr) ∧
    (s.sp ≠ 16 → ∃ t, exec (.call addr) s = .next t ∧ t.sp.val = s.sp.val + 1 ∧ t.pc.toNat = addr.toNat ∧
      (∀ j : Fin 16, t.stack[j] = if j.val = s.sp.val then s.pc else s.stack[j]) ∧
      t = { s with pc := t.pc, sp := t.sp, stack := t.stack }) ∧
    (s.sp = 16 → exec (.call addr) s = .next (haltedBy .stackOverflow (.sp 16) s))

/-- JumpOffset (rule R123): the exact sum of the address and V0, not reduced mod 4096. -/
def Obligations.JumpOffsetAddsV0Exactly : Prop :=
  ∀ (addr : Addr) (s : State),
    decode (0xB#4 ++ addr) = .operation (.jumpOffset addr) ∧
    ∃ t, exec (.jumpOffset addr) s = .next t ∧ t.pc.toNat = addr.toNat + s.V[(0 : Reg)].toNat ∧
      t = { s with pc := t.pc }

/-- The skips on registers and values (rules R124 to R127): 2 more when the condition holds, nothing else. Words
5xyn and 9xyn with `n` other than 0 are Unrecognized. -/
def Obligations.SkipsAddTwoOnTheirCondition : Prop :=
  ∀ (x y : Reg) (val : Byte) (s : State),
    decode (0x3#4 ++ regNibble x ++ val) = .operation (.skipEqVal x val) ∧
    decode (0x4#4 ++ regNibble x ++ val) = .operation (.skipNotEqVal x val) ∧
    decode (0x5#4 ++ regNibble x ++ regNibble y ++ 0x0#4) = .operation (.skipEq x y) ∧
    decode (0x9#4 ++ regNibble x ++ regNibble y ++ 0x0#4) = .operation (.skipNotEq x y) ∧
    (∀ n : Nibble, n ≠ 0 →
      decode (0x5#4 ++ regNibble x ++ regNibble y ++ n) = .unrecognized ∧
      decode (0x9#4 ++ regNibble x ++ regNibble y ++ n) = .unrecognized) ∧
    exec (.skipEqVal x val) s = .next { s with pc := if s.V[x] = val then s.pc + 2 else s.pc } ∧
    exec (.skipNotEqVal x val) s = .next { s with pc := if s.V[x] = val then s.pc else s.pc + 2 } ∧
    exec (.skipEq x y) s = .next { s with pc := if s.V[x] = s.V[y] then s.pc + 2 else s.pc } ∧
    exec (.skipNotEq x y) s = .next { s with pc := if s.V[x] = s.V[y] then s.pc else s.pc + 2 }

/-! ## Register operations -/

/-- SetVal, AddVal and Copy (rules R140 to R142): one destination, no flag. -/
def Obligations.SetAddAndCopyWriteOneRegister : Prop :=
  ∀ (x y : Reg) (val : Byte) (s : State),
    decode (0x6#4 ++ regNibble x ++ val) = .operation (.setVal x val) ∧
    decode (0x7#4 ++ regNibble x ++ val) = .operation (.addVal x val) ∧
    decode (0x8#4 ++ regNibble x ++ regNibble y ++ 0x0#4) = .operation (.copy x y) ∧
    (∃ t, exec (.setVal x val) s = .next t ∧ t.V[x] = val ∧
      (∀ r : Reg, r ≠ x → t.V[r] = s.V[r]) ∧ t = { s with V := t.V }) ∧
    (∃ t, exec (.addVal x val) s = .next t ∧ t.V[x].toNat = (s.V[x].toNat + val.toNat) % 256 ∧
      (∀ r : Reg, r ≠ x → t.V[r] = s.V[r]) ∧ t = { s with V := t.V }) ∧
    (∃ t, exec (.copy x y) s = .next t ∧ t.V[x] = s.V[y] ∧
      (∀ r : Reg, r ≠ x → t.V[r] = s.V[r]) ∧ t = { s with V := t.V })

/-- Or, And and Xor (rules R143 to R145), bit by bit: one destination, VF unchanged unless it is the destination. -/
def Obligations.LogicOperationsWriteOneRegister : Prop :=
  ∀ (x y : Reg) (s : State),
    decode (0x8#4 ++ regNibble x ++ regNibble y ++ 0x1#4) = .operation (.or x y) ∧
    decode (0x8#4 ++ regNibble x ++ regNibble y ++ 0x2#4) = .operation (.and x y) ∧
    decode (0x8#4 ++ regNibble x ++ regNibble y ++ 0x3#4) = .operation (.xor x y) ∧
    (∃ t, exec (.or x y) s = .next t ∧
      (∀ b, t.V[x].getLsbD b = (s.V[x].getLsbD b || s.V[y].getLsbD b)) ∧
      (∀ r : Reg, r ≠ x → t.V[r] = s.V[r]) ∧ t = { s with V := t.V }) ∧
    (∃ t, exec (.and x y) s = .next t ∧
      (∀ b, t.V[x].getLsbD b = (s.V[x].getLsbD b && s.V[y].getLsbD b)) ∧
      (∀ r : Reg, r ≠ x → t.V[r] = s.V[r]) ∧ t = { s with V := t.V }) ∧
    (∃ t, exec (.xor x y) s = .next t ∧
      (∀ b, t.V[x].getLsbD b = (s.V[x].getLsbD b ^^ s.V[y].getLsbD b)) ∧
      (∀ r : Reg, r ≠ x → t.V[r] = s.V[r]) ∧ t = { s with V := t.V })

/-- Add (rule R146): the sum mod 256, then VF the carry, which is final also when it is the destination. -/
def Obligations.AddWritesTheSumThenTheCarry : Prop :=
  ∀ (x y : Reg) (s : State),
    decode (0x8#4 ++ regNibble x ++ regNibble y ++ 0x4#4) = .operation (.add x y) ∧
    ∃ t, exec (.add x y) s = .next t ∧
      (x ≠ 15 → t.V[x].toNat = (s.V[x].toNat + s.V[y].toNat) % 256) ∧
      t.V[(15 : Reg)] = (if s.V[x].toNat + s.V[y].toNat > 255 then 1 else 0) ∧
      (∀ r : Reg, r ≠ x → r ≠ 15 → t.V[r] = s.V[r]) ∧ t = { s with V := t.V }

/-- Subtract (rule R147): the difference mod 256, then VF 1 when there is no borrow, equality included. -/
def Obligations.SubtractWritesTheDifferenceThenNoBorrow : Prop :=
  ∀ (x y : Reg) (s : State),
    decode (0x8#4 ++ regNibble x ++ regNibble y ++ 0x5#4) = .operation (.subtract x y) ∧
    ∃ t, exec (.subtract x y) s = .next t ∧
      (x ≠ 15 → (t.V[x].toNat : Int) = ((s.V[x].toNat : Int) - s.V[y].toNat) % 256) ∧
      t.V[(15 : Reg)] = (if s.V[x].toNat ≥ s.V[y].toNat then 1 else 0) ∧
      (∀ r : Reg, r ≠ x → r ≠ 15 → t.V[r] = s.V[r]) ∧ t = { s with V := t.V }

/-- Difference (rule R148): Subtract with its operands exchanged. -/
def Obligations.DifferenceWritesTheReverseDifference : Prop :=
  ∀ (x y : Reg) (s : State),
    decode (0x8#4 ++ regNibble x ++ regNibble y ++ 0x7#4) = .operation (.difference x y) ∧
    ∃ t, exec (.difference x y) s = .next t ∧
      (x ≠ 15 → (t.V[x].toNat : Int) = ((s.V[y].toNat : Int) - s.V[x].toNat) % 256) ∧
      t.V[(15 : Reg)] = (if s.V[y].toNat ≥ s.V[x].toNat then 1 else 0) ∧
      (∀ r : Reg, r ≠ x → r ≠ 15 → t.V[r] = s.V[r]) ∧ t = { s with V := t.V }

/-- ShiftRight (rule R149): VF takes the bit shifted out and `V[x]` is halved, whatever bits 7..4 of the word are; with
`x = 15` VF ends 0. -/
def Obligations.ShiftRightFlagsTheBitShiftedOut : Prop :=
  ∀ (x : Reg) (ignored : Nibble) (s : State),
    decode (0x8#4 ++ regNibble x ++ ignored ++ 0x6#4) = .operation (.shiftRight x) ∧
    ∃ t, exec (.shiftRight x) s = .next t ∧
      (x ≠ 15 → t.V[x].toNat = s.V[x].toNat / 2 ∧ t.V[(15 : Reg)].toNat = s.V[x].toNat % 2) ∧
      (x = 15 → t.V[(15 : Reg)] = 0) ∧
      (∀ r : Reg, r ≠ x → r ≠ 15 → t.V[r] = s.V[r]) ∧ t = { s with V := t.V }

/-- ShiftLeft (rule R150): VF takes the bit shifted out and `V[x]` is doubled mod 256; with `x = 15` VF ends 2 or 0. -/
def Obligations.ShiftLeftFlagsTheBitShiftedOut : Prop :=
  ∀ (x : Reg) (ignored : Nibble) (s : State),
    decode (0x8#4 ++ regNibble x ++ ignored ++ 0xE#4) = .operation (.shiftLeft x) ∧
    ∃ t, exec (.shiftLeft x) s = .next t ∧
      (x ≠ 15 → t.V[x].toNat = s.V[x].toNat * 2 % 256 ∧ t.V[(15 : Reg)].toNat = s.V[x].toNat / 128) ∧
      (x = 15 → t.V[(15 : Reg)] = if s.V[(15 : Reg)].toNat ≥ 128 then 2 else 0) ∧
      (∀ r : Reg, r ≠ x → r ≠ 15 → t.V[r] = s.V[r]) ∧ t = { s with V := t.V }

/-- Rand (rule R151): a draw ANDed with the immediate. MODEL's choice (assumption 5): the draw is the free value
`Config.randDraw` at the count `draws`, and the count goes up by 1, so that the next execution takes another draw. No
value of the draw is fixed. -/
def Obligations.RandMasksAFreshDraw : Prop :=
  ∀ (x : Reg) (val : Byte) (s : State),
    decode (0xC#4 ++ regNibble x ++ val) = .operation (.rand x val) ∧
    ∃ t, exec (.rand x val) s = .next t ∧ t.draws = s.draws + 1 ∧
      (∀ b, t.V[x].getLsbD b = ((Config.randDraw s.draws).getLsbD b && val.getLsbD b)) ∧
      (∀ r : Reg, r ≠ x → t.V[r] = s.V[r]) ∧ t = { s with V := t.V, draws := t.draws }

/-! ## Index register and memory -/

/-- SetIndex, AddIndex and SetIndexCharacter (rules R170 to R172): `I` alone, unmasked and without a flag. -/
def Obligations.IndexOperationsWriteTheIndex : Prop :=
  ∀ (x : Reg) (addr : Addr) (s : State),
    decode (0xA#4 ++ addr) = .operation (.setIndex addr) ∧
    decode (0xF#4 ++ regNibble x ++ 0x1E#8) = .operation (.addIndex x) ∧
    decode (0xF#4 ++ regNibble x ++ 0x29#8) = .operation (.setIndexCharacter x) ∧
    (∃ t, exec (.setIndex addr) s = .next t ∧ t.I.toNat = addr.toNat ∧ t = { s with I := t.I }) ∧
    (∃ t, exec (.addIndex x) s = .next t ∧ t.I.toNat = (s.I.toNat + s.V[x].toNat) % 65536 ∧
      t = { s with I := t.I }) ∧
    (∃ t, exec (.setIndexCharacter x) s = .next t ∧ t.I.toNat = s.V[x].toNat * 5 ∧ t = { s with I := t.I })

/-- StoreBCD (rule R173): the three digits at `I`, or a fault with nothing written. Premise: the memory is in its
canonical form, which every step keeps (`StepKeepsTheMemoryCanonical`). -/
def Obligations.StoreBCDStoresThreeDigits : Prop :=
  ∀ (x : Reg) (s : State), s.mem.wf = true →
    decode (0xF#4 ++ regNibble x ++ 0x33#8) = .operation (.storeBCD x) ∧
    (s.I.toNat + 3 ≤ 4096 → ∃ t, exec (.storeBCD x) s = .next t ∧
      (t.mem.read s.I.toNat).toNat = s.V[x].toNat / 100 ∧
      (t.mem.read (s.I.toNat + 1)).toNat = s.V[x].toNat / 10 % 10 ∧
      (t.mem.read (s.I.toNat + 2)).toNat = s.V[x].toNat % 10 ∧
      (∀ a, a < s.I.toNat ∨ s.I.toNat + 3 ≤ a → t.mem.read a = s.mem.read a) ∧
      t = { s with mem := t.mem }) ∧
    (s.I.toNat + 3 > 4096 → exec (.storeBCD x) s = .next (haltedBy .memOutOfRange (.access s.I 3) s))

/-- RegDump (rule R174): V0 to `V[x]` at `I`, `x` included, or a fault with nothing written. Premise as for StoreBCD. -/
def Obligations.RegDumpStoresTheFirstRegisters : Prop :=
  ∀ (x : Reg) (s : State), s.mem.wf = true →
    decode (0xF#4 ++ regNibble x ++ 0x55#8) = .operation (.regDump x) ∧
    (s.I.toNat + (x.val + 1) ≤ 4096 → ∃ t, exec (.regDump x) s = .next t ∧
      (∀ r : Reg, r ≤ x → t.mem.read (s.I.toNat + r.val) = s.V[r]) ∧
      (∀ a, a < s.I.toNat ∨ s.I.toNat + (x.val + 1) ≤ a → t.mem.read a = s.mem.read a) ∧
      t = { s with mem := t.mem }) ∧
    (s.I.toNat + (x.val + 1) > 4096 →
      exec (.regDump x) s = .next (haltedBy .memOutOfRange (.access s.I (x.val + 1)) s))

/-- RegLoad (rule R175): V0 to `V[x]` from `I`, `x` included, or a fault with nothing written. -/
def Obligations.RegLoadLoadsTheFirstRegisters : Prop :=
  ∀ (x : Reg) (s : State),
    decode (0xF#4 ++ regNibble x ++ 0x65#8) = .operation (.regLoad x) ∧
    (s.I.toNat + (x.val + 1) ≤ 4096 → ∃ t, exec (.regLoad x) s = .next t ∧
      (∀ r : Reg, t.V[r] = if r ≤ x then s.mem.read (s.I.toNat + r.val) else s.V[r]) ∧
      t = { s with V := t.V }) ∧
    (s.I.toNat + (x.val + 1) > 4096 →
      exec (.regLoad x) s = .next (haltedBy .memOutOfRange (.access s.I (x.val + 1)) s))

/-! ## Display -/

/-- ClearDisplay (rules R191, R195): every pixel unset, nothing else touched. -/
def Obligations.ClearDisplayUnsetsEveryPixel : Prop :=
  ∀ s : State,
    decode (0x00E0 : Halfword) = .operation .clearDisplay ∧
    ∃ t, exec .clearDisplay s = .next t ∧ (∀ px py, pixel t.FB px py = false) ∧ t = { s with FB := t.FB }

open Classical in
/-- The closed form of a drawing (rule R194): the framebuffer XOR the pixels the 1 bits cover, and a collision exactly
when a covered pixel was set. An anchor off the screen draws nothing (rule R192). -/
def Obligations.DrawingIsXorWithTheCoveredPixels : Prop :=
  ∀ (x0 y0 : Byte) (bytes : List Byte) (f : Framebuffer), bytes.length ≤ 15 →
    (x0.toNat ≥ 64 ∨ y0.toNat ≥ 32 → drawSprite x0 y0 bytes f = (f, false)) ∧
    (x0.toNat < 64 → y0.toNat < 32 →
      (∀ px py, px < 64 → py < 32 →
        pixel (drawSprite x0 y0 bytes f).1 px py =
          (pixel f px py ^^ decide (spriteCovers x0.toNat y0.toNat bytes px py))) ∧
      ((drawSprite x0 y0 bytes f).2 = true ↔
        ∃ px py, px < 64 ∧ py < 32 ∧ spriteCovers x0.toNat y0.toNat bytes px py ∧ pixel f px py = true))

/-- Drawing one sprite twice at one place on the screen restores the framebuffer, and the second drawing collides exactly
when some bit was drawn on a pixel that was unset before (95_test_vectors.md S5). -/
def Obligations.DrawingTwiceRestoresTheFramebuffer : Prop :=
  ∀ (x0 y0 : Byte) (bytes : List Byte) (f : Framebuffer), bytes.length ≤ 15 → x0.toNat < 64 → y0.toNat < 32 →
    (drawSprite x0 y0 bytes (drawSprite x0 y0 bytes f).1).1 = f ∧
    ((drawSprite x0 y0 bytes (drawSprite x0 y0 bytes f).1).2 = true ↔
      ∃ px py, px < 64 ∧ py < 32 ∧ spriteCovers x0.toNat y0.toNat bytes px py ∧ pixel f px py = false)

open Classical in
/-- DrawSprite (rule R196): `n` bytes at `I`, the anchor in `V[x]` and `V[y]` read before VF is written, VF the collision
and always written; the range check comes before the anchor check. -/
def Obligations.DrawSpriteXorsAndReportsCollision : Prop :=
  ∀ (x y : Reg) (n : Nibble) (s : State),
    decode (0xD#4 ++ regNibble x ++ regNibble y ++ n) = .operation (.drawSprite x y n) ∧
    (s.I.toNat + n.toNat ≤ 4096 → ∃ t bytes, exec (.drawSprite x y n) s = .next t ∧
      bytes = (List.range n.toNat).map (fun row => s.mem.read (s.I.toNat + row)) ∧
      (s.V[x].toNat ≥ 64 ∨ s.V[y].toNat ≥ 32 → t.FB = s.FB ∧ t.V[(15 : Reg)] = 0) ∧
      (s.V[x].toNat < 64 → s.V[y].toNat < 32 →
        (∀ px py, px < 64 → py < 32 →
          pixel t.FB px py =
            (pixel s.FB px py ^^ decide (spriteCovers s.V[x].toNat s.V[y].toNat bytes px py))) ∧
        t.V[(15 : Reg)] =
          if ∃ px py, px < 64 ∧ py < 32 ∧ spriteCovers s.V[x].toNat s.V[y].toNat bytes px py ∧
            pixel s.FB px py = true then 1 else 0) ∧
      (∀ r : Reg, r ≠ 15 → t.V[r] = s.V[r]) ∧ t = { s with V := t.V, FB := t.FB }) ∧
    (s.I.toNat + n.toNat > 4096 →
      exec (.drawSprite x y n) s = .next (haltedBy .memOutOfRange (.access s.I n.toNat) s))

/-! ## Keys and timers -/

/-- The key skips (rules R214, R215): on the level of the key `V[x]` names, and a fault when it names none. -/
def Obligations.KeySkipsTestTheKeyLevel : Prop :=
  ∀ (x : Reg) (s : State),
    decode (0xE#4 ++ regNibble x ++ 0x9E#8) = .operation (.skipKeyPressed x) ∧
    decode (0xE#4 ++ regNibble x ++ 0xA1#8) = .operation (.skipKeyNotPressed x) ∧
    (∀ k : Key, s.V[x].toNat = k.val →
      exec (.skipKeyPressed x) s = .next { s with pc := if s.KEY[k] then s.pc + 2 else s.pc } ∧
      exec (.skipKeyNotPressed x) s = .next { s with pc := if s.KEY[k] then s.pc else s.pc + 2 }) ∧
    (s.V[x].toNat ≥ 16 →
      exec (.skipKeyPressed x) s = .next (haltedBy .keyOutOfRange (.key s.V[x]) s) ∧
      exec (.skipKeyNotPressed x) s = .next (haltedBy .keyOutOfRange (.key s.V[x]) s))

/-- GetKeyPress (rule R216): the first execution arms and goes back, later ones go back until a release is recorded, and
then it disarms, writes the key and goes on. -/
def Obligations.GetKeyPressArmsRepeatsAndCompletes : Prop :=
  ∀ (x : Reg) (s : State),
    decode (0xF#4 ++ regNibble x ++ 0x0A#8) = .operation (.getKeyPress x) ∧
    (s.kbTracking = false →
      exec (.getKeyPress x) s =
        .next { s with kbTracking := true, kbLastReleased := none, pc := s.pc - 2 }) ∧
    (s.kbTracking = true → s.kbLastReleased = none →
      exec (.getKeyPress x) s = .next { s with pc := s.pc - 2 }) ∧
    (∀ k : Key, s.kbTracking = true → s.kbLastReleased = some k →
      ∃ t, exec (.getKeyPress x) s = .next t ∧ t.V[x].toNat = k.val ∧
        (∀ r : Reg, r ≠ x → t.V[r] = s.V[r]) ∧
        t = { s with V := t.V, kbTracking := false, kbLastReleased := none })

/-- From the first execution of a GetKeyPress to its end (rules R216, R291): whatever was recorded before is forgotten, a
press and release of key `k` after arming completes it at the next execution, and `V[x]` is `k`. -/
def Obligations.GetKeyPressReturnsTheKeyReleasedAfterArming : Prop :=
  ∀ (x : Reg) (k : Key) (s : State), s.kbTracking = false → s.pc.toNat ≤ 4094 →
    decode (halfwordOfBytes (s.mem.read s.pc.toNat) (s.mem.read (s.pc.toNat + 1))) =
      .operation (.getKeyPress x) →
    ∃ armed done, execute s = .next armed ∧ armed.pc = s.pc ∧ armed.V = s.V ∧
      execute armed = .next armed ∧
      execute (setPressed k false (setPressed k true armed)) = .next done ∧
      done.pc = s.pc + 2 ∧ done.V[x].toNat = k.val ∧ done.kbTracking = false ∧ done.kbLastReleased = none

/-- GetDelayTimer, SetDelayTimer and SetSoundTimer (rules R218 to R220). -/
def Obligations.TimerOperationsMoveTheTimers : Prop :=
  ∀ (x : Reg) (s : State),
    decode (0xF#4 ++ regNibble x ++ 0x07#8) = .operation (.getDelayTimer x) ∧
    decode (0xF#4 ++ regNibble x ++ 0x15#8) = .operation (.setDelayTimer x) ∧
    decode (0xF#4 ++ regNibble x ++ 0x18#8) = .operation (.setSoundTimer x) ∧
    (∃ t, exec (.getDelayTimer x) s = .next t ∧ t.V[x] = s.DT ∧
      (∀ r : Reg, r ≠ x → t.V[r] = s.V[r]) ∧ t = { s with V := t.V }) ∧
    exec (.setDelayTimer x) s = .next { s with DT := s.V[x] } ∧
    (∃ t, exec (.setSoundTimer x) s = .next t ∧ (soundOut t = true ↔ s.V[x].toNat > 0) ∧
      t = { s with ST := s.V[x] })

/-! ## Rules over all operations -/

/-- An operation writes the general registers that the register table lists for it and no other (rule R23, column
"writes"). -/
def Obligations.OperationsWriteOnlyTheirRegisters : Prop :=
  ∀ (i : Instr) (s t : State), exec i s = .next t →
    ∀ r : Reg, writesReg i r = false → t.V[r] = s.V[r]

/-- Each element of the state is written by the operations the spec names for it and no other (rules R28 to R36, R60):
`mem` by StoreBCD and RegDump, the framebuffer by ClearDisplay and DrawSprite, `I` by the three index operations,
the stack by Call, `sp` by Call and Return, the timers by their setters, the tracker by GetKeyPress. The key
levels, the deadlines and the model's own record of the host are written by none. -/
def Obligations.OperationsWriteOnlyTheirElements : Prop :=
  ∀ (i : Instr) (s t : State), exec i s = .next t →
    ((∀ x, i ≠ .storeBCD x ∧ i ≠ .regDump x) → ∀ a, t.mem.read a = s.mem.read a) ∧
    (i ≠ .clearDisplay → (∀ x y n, i ≠ .drawSprite x y n) → t.FB = s.FB) ∧
    ((∀ x addr, i ≠ .setIndex addr ∧ i ≠ .addIndex x ∧ i ≠ .setIndexCharacter x) → t.I = s.I) ∧
    ((∀ addr, i ≠ .call addr) → t.stack = s.stack ∧ (i ≠ .ret → t.sp = s.sp)) ∧
    ((∀ x, i ≠ .setDelayTimer x) → t.DT = s.DT) ∧
    ((∀ x, i ≠ .setSoundTimer x) → t.ST = s.ST) ∧
    ((∀ x, i ≠ .getKeyPress x) → t.kbTracking = s.kbTracking ∧ t.kbLastReleased = s.kbLastReleased) ∧
    ((∀ x val, i ≠ .rand x val) → t.draws = s.draws) ∧
    t.KEY = s.KEY ∧ t.nextInstructionDeadline = s.nextInstructionDeadline ∧
    t.nextTimerDeadline = s.nextTimerDeadline ∧ t.hostMoves = s.hostMoves ∧ t.lastNow = s.lastNow ∧
    t.unitsPerMs = s.unitsPerMs ∧ t.timerPeriod = s.timerPeriod ∧ t.glyphs = s.glyphs

/-- A program cannot see the sound timer (rules R30, R41): an operation does the same whatever ST holds, and leaves ST as
it was unless it is SetSoundTimer. -/
def Obligations.NoOperationReadsTheSoundTimer : Prop :=
  ∀ (i : Instr) (s t : State) (b : Byte), exec i s = .next t →
    exec i { s with ST := b } =
      .next { t with ST := match i with
                       | .setSoundTimer _ => t.ST
                       | _ => b }

/-! ## Invariants -/

/-- The invariants of rule R43 hold right after reset, with any image and any `T0`. "The latest `now` seen" is
the model's `lastNow`, which is `T0` at reset (assumption 7). -/
def Obligations.ResetMeetsTheBlockInvariants : Prop :=
  ∀ (image : List Byte) (t0 : Nat) (s : State), BlockInv State.reset ∧ BlockInv (resetWith image t0 s)

/-- Every step keeps the invariants of rule R43, from any state that meets them (`lastNow`: assumption 7). -/
def Obligations.StepKeepsTheBlockInvariants : Prop :=
  ∀ s t : State, BlockInv s → step s = .next t → BlockInv t

/-- Every step keeps the memory in its canonical form, and reset has it. The form is the model's own (assumption 9):
addresses rising, below 4096, no cell equal to its reset contents. -/
def Obligations.StepKeepsTheMemoryCanonical : Prop :=
  State.reset.mem.wf = true ∧ ∀ s t : State, s.mem.wf = true → step s = .next t → t.mem.wf = true

/-- Every step keeps the bounds of rules R27 and R109, and reset has them: `pc` is at most 0x10FE and every saved `pc` at
most 4096, so `pc` arithmetic never wraps. -/
def Obligations.StepKeepsThePcBounds : Prop :=
  PcInv State.reset ∧ ∀ s t : State, PcInv s → step s = .next t → PcInv t

end
end

