-- ==== Sys2Proof/Laws/Decode.lean ====
section
/-! SUPPORT. The fields of a word written by its format, and the verdict of each format. -/

namespace Sys2Proof

/-! ## The fields of a word in format A, XN, XYN (rules R71, R72) -/

theorem append_toNat {m n : Nat} (a : BitVec m) (b : BitVec n) :
    (a ++ b).toNat = a.toNat * 2 ^ n + b.toNat := by
  rw [BitVec.toNat_append, Nat.shiftLeft_eq, Nat.mul_comm, Nat.two_pow_add_eq_or_of_lt b.isLt]

@[simp] theorem regNibble_zero : regNibble 0 = 0 := rfl

theorem regNibble_toNat (r : Reg) : (regNibble r).toNat = r.val := rfl

theorem encodeA_toNat (op1 : Nibble) (addr : Addr) : (encodeA op1 addr).toNat = op1.toNat * 4096 + addr.toNat :=
  append_toNat op1 addr

theorem encodeXN_toNat (op1 : Nibble) (x : Reg) (nn : Byte) :
    (encodeXN op1 x nn).toNat = op1.toNat * 4096 + x.val * 256 + nn.toNat := by
  have h : (encodeXN op1 x nn).toNat = (op1 ++ regNibble x).toNat * 2 ^ 8 + nn.toNat := append_toNat _ _
  rw [h, append_toNat, regNibble_toNat]
  omega

theorem encodeXYN_toNat (op1 : Nibble) (x y : Reg) (n : Nibble) :
    (encodeXYN op1 x y n).toNat = op1.toNat * 4096 + x.val * 256 + y.val * 16 + n.toNat := by
  have h : (encodeXYN op1 x y n).toNat = (op1 ++ regNibble x ++ regNibble y).toNat * 2 ^ 4 + n.toNat :=
    append_toNat _ _
  rw [h, append_toNat, append_toNat, regNibble_toNat, regNibble_toNat]
  omega

theorem opField_toNat (w : Halfword) : (opField w).toNat = w.toNat / 4096 := by
  simp only [opField, BitVec.extractLsb'_toNat, Nat.shiftRight_eq_div_pow]
  omega

theorem xField_val (w : Halfword) : (xField w).val = w.toNat / 256 % 16 := by
  simp [xField, Nat.shiftRight_eq_div_pow]

theorem yField_val (w : Halfword) : (yField w).val = w.toNat / 16 % 16 := by
  simp [yField, Nat.shiftRight_eq_div_pow]

theorem nField_toNat (w : Halfword) : (nField w).toNat = w.toNat % 16 := by
  simp [nField]

theorem nnField_toNat (w : Halfword) : (nnField w).toNat = w.toNat % 256 := by
  simp [nnField]

theorem nnnField_toNat (w : Halfword) : (nnnField w).toNat = w.toNat % 4096 := by
  simp [nnnField]

section
variable (op1 n : Nibble) (x y : Reg) (nn : Byte) (addr : Addr)

@[simp] theorem opField_encodeA : opField (encodeA op1 addr) = op1 := by
  apply BitVec.eq_of_toNat_eq
  rw [opField_toNat, encodeA_toNat]
  omega

@[simp] theorem nnnField_encodeA : nnnField (encodeA op1 addr) = addr := by
  apply BitVec.eq_of_toNat_eq
  rw [nnnField_toNat, encodeA_toNat]
  omega

@[simp] theorem opField_encodeXN : opField (encodeXN op1 x nn) = op1 := by
  apply BitVec.eq_of_toNat_eq
  rw [opField_toNat, encodeXN_toNat]
  omega

@[simp] theorem xField_encodeXN : xField (encodeXN op1 x nn) = x := by
  apply Fin.ext
  rw [xField_val, encodeXN_toNat]
  omega

@[simp] theorem nnField_encodeXN : nnField (encodeXN op1 x nn) = nn := by
  apply BitVec.eq_of_toNat_eq
  rw [nnField_toNat, encodeXN_toNat]
  omega

@[simp] theorem opField_encodeXYN : opField (encodeXYN op1 x y n) = op1 := by
  apply BitVec.eq_of_toNat_eq
  rw [opField_toNat, encodeXYN_toNat]
  omega

@[simp] theorem xField_encodeXYN : xField (encodeXYN op1 x y n) = x := by
  apply Fin.ext
  rw [xField_val, encodeXYN_toNat]
  omega

@[simp] theorem yField_encodeXYN : yField (encodeXYN op1 x y n) = y := by
  apply Fin.ext
  rw [yField_val, encodeXYN_toNat]
  omega

@[simp] theorem nField_encodeXYN : nField (encodeXYN op1 x y n) = n := by
  apply BitVec.eq_of_toNat_eq
  rw [nField_toNat, encodeXYN_toNat]
  omega

end

/-! ## The bits of a word in each format (rule R72) -/

theorem encodeA_getLsbD (op1 : Nibble) (addr : Addr) (b : Nat) :
    (encodeA op1 addr).getLsbD b = if b < 12 then addr.getLsbD b else op1.getLsbD (b - 12) :=
  BitVec.getLsbD_append

theorem encodeXN_getLsbD (op1 : Nibble) (x : Reg) (nn : Byte) (b : Nat) :
    (encodeXN op1 x nn).getLsbD b =
      if b < 8 then nn.getLsbD b
      else if b - 8 < 4 then (regNibble x).getLsbD (b - 8) else op1.getLsbD (b - 8 - 4) :=
  BitVec.getLsbD_append.trans (by rw [BitVec.getLsbD_append])

theorem encodeXYN_getLsbD (op1 : Nibble) (x y : Reg) (n : Nibble) (b : Nat) :
    (encodeXYN op1 x y n).getLsbD b =
      if b < 4 then n.getLsbD b
      else if b - 4 < 4 then (regNibble y).getLsbD (b - 4)
      else if b - 4 - 4 < 4 then (regNibble x).getLsbD (b - 4 - 4) else op1.getLsbD (b - 4 - 4 - 4) :=
  BitVec.getLsbD_append.trans (by rw [BitVec.getLsbD_append, BitVec.getLsbD_append])

/-! ## Bytes -/

/-- A halfword is its two bytes, big-endian (rule R52). -/
theorem halfwordOfBytes_bytes (w : Halfword) : halfwordOfBytes (highByte w) (lowByte w) = w := by
  apply BitVec.eq_of_toNat_eq
  rw [halfwordOfBytes, append_toNat]
  simp only [highByte, lowByte, BitVec.extractLsb'_toNat, Nat.shiftRight_eq_div_pow]
  omega

/-- A halfword from its bytes in numbers (rule R52). -/
theorem halfwordOfBytes_toNat (hi lo : Byte) : (halfwordOfBytes hi lo).toNat = hi.toNat * 256 + lo.toNat :=
  append_toNat hi lo

/-- The byte decoder reads the word decoder's verdict from the two bytes of a word. -/
theorem decodeBytes_word (w : Halfword) (rest : List Byte) :
    decodeBytes (highByte w :: lowByte w :: rest) = .decoded (decode w) rest := by
  simp [decodeBytes, halfwordOfBytes_bytes]

end Sys2Proof
end

