-- ==== Sys2Proof/Laws/Display.lean ====
section
/-! SUPPORT. The framebuffer laws: what one toggle does to every pixel, and what the anchor check does. -/

namespace Sys2Proof.Machine

theorem rowIndex_val (cy : Nat) : (rowIndex cy).val = cy % 32 := rfl

/-- Pixels are read modulo the width and the height (rule R190). -/
theorem pixel_mod (f : Framebuffer) (cx cy : Nat) : pixel f (cx % 64) (cy % 32) = pixel f cx cy := by
  have : rowIndex (cy % 32) = rowIndex cy := Fin.ext (by simp [rowIndex])
  simp [pixel, this]

/-- One toggle flips the pixel its coordinates wrap to and no other (rule R192). -/
theorem pixel_togglePixel (cx cy : Nat) (d : Framebuffer × Bool) (px py : Nat) :
    pixel (togglePixel cx cy d).1 px py =
      (pixel d.1 px py ^^ decide (px % 64 = cx % 64 ∧ py % 32 = cy % 32)) := by
  have hx : px % 64 < 64 := Nat.mod_lt _ (by decide)
  by_cases hy : py % 32 = cy % 32
  · have e : rowIndex py = rowIndex cy := Fin.ext hy
    simp [togglePixel, pixel, e, hy, hx, eq_comm]
  · have e : (rowIndex cy).val ≠ (rowIndex py).val := fun h => hy h.symm
    simp only [rowIndex_val] at e
    simp [togglePixel, pixel, hy, rowIndex_val, e]

/-- A toggle collides when the pixel was set, and a collision stays (rule R193). -/
@[simp] theorem collision_togglePixel (cx cy : Nat) (d : Framebuffer × Bool) :
    (togglePixel cx cy d).2 = (d.2 || pixel d.1 cx cy) := rfl

@[simp] theorem pixel_clearFrame (px py : Nat) : pixel clearFrame px py = false := by
  simp [pixel, clearFrame]

/-- Two framebuffers with the same pixels are equal. -/
theorem framebuffer_ext {f g : Framebuffer} (h : ∀ px py, px < 64 → py < 32 → pixel f px py = pixel g px py) :
    f = g := by
  apply Vector.ext
  intro py hy
  apply BitVec.eq_of_getLsbD_eq
  intro px hx
  have e : rowIndex py = ⟨py, hy⟩ := Fin.ext (by simp [rowIndex, Nat.mod_eq_of_lt hy])
  simpa [pixel, e, Nat.mod_eq_of_lt hx] using h px py hx hy

/-- An anchor off the screen draws nothing and reports no collision (rule R192). -/
theorem drawSprite_offScreen {x0 y0 : Byte} (bytes : List Byte) (f : Framebuffer)
    (h : x0.toNat ≥ 64 ∨ y0.toNat ≥ 32) : drawSprite x0 y0 bytes f = (f, false) := by
  simp [drawSprite, h]

/-- An anchor on the screen draws every row (rule R192). -/
theorem drawSprite_onScreen {x0 y0 : Byte} (bytes : List Byte) (f : Framebuffer)
    (hx : x0.toNat < 64) (hy : y0.toNat < 32) :
    drawSprite x0 y0 bytes f = drawRows x0.toNat y0.toNat bytes (f, false) := by
  have : ¬ (x0.toNat ≥ 64 ∨ y0.toNat ≥ 32) := by omega
  simp [drawSprite, this]

end Sys2Proof.Machine
end

