-- ==== Sys2Proof/Laws/State.lean ====
section
/-! SUPPORT. What each update of the state does to each field: one lemma per field per update. -/

namespace Sys2Proof.Machine

variable (s : State)

/-! ## setReg -/

@[simp] theorem setReg_V (r : Reg) (b : Byte) : (s.setReg r b).V = s.V.set r b := rfl
@[simp] theorem setReg_I (r : Reg) (b : Byte) : (s.setReg r b).I = s.I := rfl
@[simp] theorem setReg_pc (r : Reg) (b : Byte) : (s.setReg r b).pc = s.pc := rfl
@[simp] theorem setReg_sp (r : Reg) (b : Byte) : (s.setReg r b).sp = s.sp := rfl
@[simp] theorem setReg_stack (r : Reg) (b : Byte) : (s.setReg r b).stack = s.stack := rfl
@[simp] theorem setReg_mem (r : Reg) (b : Byte) : (s.setReg r b).mem = s.mem := rfl
@[simp] theorem setReg_DT (r : Reg) (b : Byte) : (s.setReg r b).DT = s.DT := rfl
@[simp] theorem setReg_ST (r : Reg) (b : Byte) : (s.setReg r b).ST = s.ST := rfl
@[simp] theorem setReg_FB (r : Reg) (b : Byte) : (s.setReg r b).FB = s.FB := rfl
@[simp] theorem setReg_KEY (r : Reg) (b : Byte) : (s.setReg r b).KEY = s.KEY := rfl
@[simp] theorem setReg_kbTracking (r : Reg) (b : Byte) : (s.setReg r b).kbTracking = s.kbTracking := rfl
@[simp] theorem setReg_kbLastReleased (r : Reg) (b : Byte) : (s.setReg r b).kbLastReleased = s.kbLastReleased := rfl
@[simp] theorem setReg_nextInstructionDeadline (r : Reg) (b : Byte) : (s.setReg r b).nextInstructionDeadline = s.nextInstructionDeadline := rfl
@[simp] theorem setReg_nextTimerDeadline (r : Reg) (b : Byte) : (s.setReg r b).nextTimerDeadline = s.nextTimerDeadline := rfl
@[simp] theorem setReg_runState (r : Reg) (b : Byte) : (s.setReg r b).runState = s.runState := rfl
@[simp] theorem setReg_hostMoves (r : Reg) (b : Byte) : (s.setReg r b).hostMoves = s.hostMoves := rfl
@[simp] theorem setReg_lastNow (r : Reg) (b : Byte) : (s.setReg r b).lastNow = s.lastNow := rfl
@[simp] theorem setReg_unitsPerMs (r : Reg) (b : Byte) : (s.setReg r b).unitsPerMs = s.unitsPerMs := rfl
@[simp] theorem setReg_timerPeriod (r : Reg) (b : Byte) : (s.setReg r b).timerPeriod = s.timerPeriod := rfl
@[simp] theorem setReg_glyphs (r : Reg) (b : Byte) : (s.setReg r b).glyphs = s.glyphs := rfl
@[simp] theorem setReg_draws (r : Reg) (b : Byte) : (s.setReg r b).draws = s.draws := rfl

/-! ## setRegs -/

@[simp] theorem setRegs_V (V : Vector Byte 16) : (s.setRegs V).V = V := rfl
@[simp] theorem setRegs_I (V : Vector Byte 16) : (s.setRegs V).I = s.I := rfl
@[simp] theorem setRegs_pc (V : Vector Byte 16) : (s.setRegs V).pc = s.pc := rfl
@[simp] theorem setRegs_sp (V : Vector Byte 16) : (s.setRegs V).sp = s.sp := rfl
@[simp] theorem setRegs_stack (V : Vector Byte 16) : (s.setRegs V).stack = s.stack := rfl
@[simp] theorem setRegs_mem (V : Vector Byte 16) : (s.setRegs V).mem = s.mem := rfl
@[simp] theorem setRegs_DT (V : Vector Byte 16) : (s.setRegs V).DT = s.DT := rfl
@[simp] theorem setRegs_ST (V : Vector Byte 16) : (s.setRegs V).ST = s.ST := rfl
@[simp] theorem setRegs_FB (V : Vector Byte 16) : (s.setRegs V).FB = s.FB := rfl
@[simp] theorem setRegs_KEY (V : Vector Byte 16) : (s.setRegs V).KEY = s.KEY := rfl
@[simp] theorem setRegs_kbTracking (V : Vector Byte 16) : (s.setRegs V).kbTracking = s.kbTracking := rfl
@[simp] theorem setRegs_kbLastReleased (V : Vector Byte 16) : (s.setRegs V).kbLastReleased = s.kbLastReleased := rfl
@[simp] theorem setRegs_nextInstructionDeadline (V : Vector Byte 16) : (s.setRegs V).nextInstructionDeadline = s.nextInstructionDeadline := rfl
@[simp] theorem setRegs_nextTimerDeadline (V : Vector Byte 16) : (s.setRegs V).nextTimerDeadline = s.nextTimerDeadline := rfl
@[simp] theorem setRegs_runState (V : Vector Byte 16) : (s.setRegs V).runState = s.runState := rfl
@[simp] theorem setRegs_hostMoves (V : Vector Byte 16) : (s.setRegs V).hostMoves = s.hostMoves := rfl
@[simp] theorem setRegs_lastNow (V : Vector Byte 16) : (s.setRegs V).lastNow = s.lastNow := rfl
@[simp] theorem setRegs_unitsPerMs (V : Vector Byte 16) : (s.setRegs V).unitsPerMs = s.unitsPerMs := rfl
@[simp] theorem setRegs_timerPeriod (V : Vector Byte 16) : (s.setRegs V).timerPeriod = s.timerPeriod := rfl
@[simp] theorem setRegs_glyphs (V : Vector Byte 16) : (s.setRegs V).glyphs = s.glyphs := rfl
@[simp] theorem setRegs_draws (V : Vector Byte 16) : (s.setRegs V).draws = s.draws := rfl

/-! ## setPc -/

@[simp] theorem setPc_V (a : Halfword) : (s.setPc a).V = s.V := rfl
@[simp] theorem setPc_I (a : Halfword) : (s.setPc a).I = s.I := rfl
@[simp] theorem setPc_pc (a : Halfword) : (s.setPc a).pc = a := rfl
@[simp] theorem setPc_sp (a : Halfword) : (s.setPc a).sp = s.sp := rfl
@[simp] theorem setPc_stack (a : Halfword) : (s.setPc a).stack = s.stack := rfl
@[simp] theorem setPc_mem (a : Halfword) : (s.setPc a).mem = s.mem := rfl
@[simp] theorem setPc_DT (a : Halfword) : (s.setPc a).DT = s.DT := rfl
@[simp] theorem setPc_ST (a : Halfword) : (s.setPc a).ST = s.ST := rfl
@[simp] theorem setPc_FB (a : Halfword) : (s.setPc a).FB = s.FB := rfl
@[simp] theorem setPc_KEY (a : Halfword) : (s.setPc a).KEY = s.KEY := rfl
@[simp] theorem setPc_kbTracking (a : Halfword) : (s.setPc a).kbTracking = s.kbTracking := rfl
@[simp] theorem setPc_kbLastReleased (a : Halfword) : (s.setPc a).kbLastReleased = s.kbLastReleased := rfl
@[simp] theorem setPc_nextInstructionDeadline (a : Halfword) : (s.setPc a).nextInstructionDeadline = s.nextInstructionDeadline := rfl
@[simp] theorem setPc_nextTimerDeadline (a : Halfword) : (s.setPc a).nextTimerDeadline = s.nextTimerDeadline := rfl
@[simp] theorem setPc_runState (a : Halfword) : (s.setPc a).runState = s.runState := rfl
@[simp] theorem setPc_hostMoves (a : Halfword) : (s.setPc a).hostMoves = s.hostMoves := rfl
@[simp] theorem setPc_lastNow (a : Halfword) : (s.setPc a).lastNow = s.lastNow := rfl
@[simp] theorem setPc_unitsPerMs (a : Halfword) : (s.setPc a).unitsPerMs = s.unitsPerMs := rfl
@[simp] theorem setPc_timerPeriod (a : Halfword) : (s.setPc a).timerPeriod = s.timerPeriod := rfl
@[simp] theorem setPc_glyphs (a : Halfword) : (s.setPc a).glyphs = s.glyphs := rfl
@[simp] theorem setPc_draws (a : Halfword) : (s.setPc a).draws = s.draws := rfl

/-! ## setIndex -/

@[simp] theorem setIndex_V (a : Halfword) : (s.setIndex a).V = s.V := rfl
@[simp] theorem setIndex_I (a : Halfword) : (s.setIndex a).I = a := rfl
@[simp] theorem setIndex_pc (a : Halfword) : (s.setIndex a).pc = s.pc := rfl
@[simp] theorem setIndex_sp (a : Halfword) : (s.setIndex a).sp = s.sp := rfl
@[simp] theorem setIndex_stack (a : Halfword) : (s.setIndex a).stack = s.stack := rfl
@[simp] theorem setIndex_mem (a : Halfword) : (s.setIndex a).mem = s.mem := rfl
@[simp] theorem setIndex_DT (a : Halfword) : (s.setIndex a).DT = s.DT := rfl
@[simp] theorem setIndex_ST (a : Halfword) : (s.setIndex a).ST = s.ST := rfl
@[simp] theorem setIndex_FB (a : Halfword) : (s.setIndex a).FB = s.FB := rfl
@[simp] theorem setIndex_KEY (a : Halfword) : (s.setIndex a).KEY = s.KEY := rfl
@[simp] theorem setIndex_kbTracking (a : Halfword) : (s.setIndex a).kbTracking = s.kbTracking := rfl
@[simp] theorem setIndex_kbLastReleased (a : Halfword) : (s.setIndex a).kbLastReleased = s.kbLastReleased := rfl
@[simp] theorem setIndex_nextInstructionDeadline (a : Halfword) : (s.setIndex a).nextInstructionDeadline = s.nextInstructionDeadline := rfl
@[simp] theorem setIndex_nextTimerDeadline (a : Halfword) : (s.setIndex a).nextTimerDeadline = s.nextTimerDeadline := rfl
@[simp] theorem setIndex_runState (a : Halfword) : (s.setIndex a).runState = s.runState := rfl
@[simp] theorem setIndex_hostMoves (a : Halfword) : (s.setIndex a).hostMoves = s.hostMoves := rfl
@[simp] theorem setIndex_lastNow (a : Halfword) : (s.setIndex a).lastNow = s.lastNow := rfl
@[simp] theorem setIndex_unitsPerMs (a : Halfword) : (s.setIndex a).unitsPerMs = s.unitsPerMs := rfl
@[simp] theorem setIndex_timerPeriod (a : Halfword) : (s.setIndex a).timerPeriod = s.timerPeriod := rfl
@[simp] theorem setIndex_glyphs (a : Halfword) : (s.setIndex a).glyphs = s.glyphs := rfl
@[simp] theorem setIndex_draws (a : Halfword) : (s.setIndex a).draws = s.draws := rfl

/-! ## setMem -/

@[simp] theorem setMem_V (m : Memory) : (s.setMem m).V = s.V := rfl
@[simp] theorem setMem_I (m : Memory) : (s.setMem m).I = s.I := rfl
@[simp] theorem setMem_pc (m : Memory) : (s.setMem m).pc = s.pc := rfl
@[simp] theorem setMem_sp (m : Memory) : (s.setMem m).sp = s.sp := rfl
@[simp] theorem setMem_stack (m : Memory) : (s.setMem m).stack = s.stack := rfl
@[simp] theorem setMem_mem (m : Memory) : (s.setMem m).mem = m := rfl
@[simp] theorem setMem_DT (m : Memory) : (s.setMem m).DT = s.DT := rfl
@[simp] theorem setMem_ST (m : Memory) : (s.setMem m).ST = s.ST := rfl
@[simp] theorem setMem_FB (m : Memory) : (s.setMem m).FB = s.FB := rfl
@[simp] theorem setMem_KEY (m : Memory) : (s.setMem m).KEY = s.KEY := rfl
@[simp] theorem setMem_kbTracking (m : Memory) : (s.setMem m).kbTracking = s.kbTracking := rfl
@[simp] theorem setMem_kbLastReleased (m : Memory) : (s.setMem m).kbLastReleased = s.kbLastReleased := rfl
@[simp] theorem setMem_nextInstructionDeadline (m : Memory) : (s.setMem m).nextInstructionDeadline = s.nextInstructionDeadline := rfl
@[simp] theorem setMem_nextTimerDeadline (m : Memory) : (s.setMem m).nextTimerDeadline = s.nextTimerDeadline := rfl
@[simp] theorem setMem_runState (m : Memory) : (s.setMem m).runState = s.runState := rfl
@[simp] theorem setMem_hostMoves (m : Memory) : (s.setMem m).hostMoves = s.hostMoves := rfl
@[simp] theorem setMem_lastNow (m : Memory) : (s.setMem m).lastNow = s.lastNow := rfl
@[simp] theorem setMem_unitsPerMs (m : Memory) : (s.setMem m).unitsPerMs = s.unitsPerMs := rfl
@[simp] theorem setMem_timerPeriod (m : Memory) : (s.setMem m).timerPeriod = s.timerPeriod := rfl
@[simp] theorem setMem_glyphs (m : Memory) : (s.setMem m).glyphs = s.glyphs := rfl
@[simp] theorem setMem_draws (m : Memory) : (s.setMem m).draws = s.draws := rfl

/-! ## setDelay -/

@[simp] theorem setDelay_V (b : Byte) : (s.setDelay b).V = s.V := rfl
@[simp] theorem setDelay_I (b : Byte) : (s.setDelay b).I = s.I := rfl
@[simp] theorem setDelay_pc (b : Byte) : (s.setDelay b).pc = s.pc := rfl
@[simp] theorem setDelay_sp (b : Byte) : (s.setDelay b).sp = s.sp := rfl
@[simp] theorem setDelay_stack (b : Byte) : (s.setDelay b).stack = s.stack := rfl
@[simp] theorem setDelay_mem (b : Byte) : (s.setDelay b).mem = s.mem := rfl
@[simp] theorem setDelay_DT (b : Byte) : (s.setDelay b).DT = b := rfl
@[simp] theorem setDelay_ST (b : Byte) : (s.setDelay b).ST = s.ST := rfl
@[simp] theorem setDelay_FB (b : Byte) : (s.setDelay b).FB = s.FB := rfl
@[simp] theorem setDelay_KEY (b : Byte) : (s.setDelay b).KEY = s.KEY := rfl
@[simp] theorem setDelay_kbTracking (b : Byte) : (s.setDelay b).kbTracking = s.kbTracking := rfl
@[simp] theorem setDelay_kbLastReleased (b : Byte) : (s.setDelay b).kbLastReleased = s.kbLastReleased := rfl
@[simp] theorem setDelay_nextInstructionDeadline (b : Byte) : (s.setDelay b).nextInstructionDeadline = s.nextInstructionDeadline := rfl
@[simp] theorem setDelay_nextTimerDeadline (b : Byte) : (s.setDelay b).nextTimerDeadline = s.nextTimerDeadline := rfl
@[simp] theorem setDelay_runState (b : Byte) : (s.setDelay b).runState = s.runState := rfl
@[simp] theorem setDelay_hostMoves (b : Byte) : (s.setDelay b).hostMoves = s.hostMoves := rfl
@[simp] theorem setDelay_lastNow (b : Byte) : (s.setDelay b).lastNow = s.lastNow := rfl
@[simp] theorem setDelay_unitsPerMs (b : Byte) : (s.setDelay b).unitsPerMs = s.unitsPerMs := rfl
@[simp] theorem setDelay_timerPeriod (b : Byte) : (s.setDelay b).timerPeriod = s.timerPeriod := rfl
@[simp] theorem setDelay_glyphs (b : Byte) : (s.setDelay b).glyphs = s.glyphs := rfl
@[simp] theorem setDelay_draws (b : Byte) : (s.setDelay b).draws = s.draws := rfl

/-! ## setSound -/

@[simp] theorem setSound_V (b : Byte) : (s.setSound b).V = s.V := rfl
@[simp] theorem setSound_I (b : Byte) : (s.setSound b).I = s.I := rfl
@[simp] theorem setSound_pc (b : Byte) : (s.setSound b).pc = s.pc := rfl
@[simp] theorem setSound_sp (b : Byte) : (s.setSound b).sp = s.sp := rfl
@[simp] theorem setSound_stack (b : Byte) : (s.setSound b).stack = s.stack := rfl
@[simp] theorem setSound_mem (b : Byte) : (s.setSound b).mem = s.mem := rfl
@[simp] theorem setSound_DT (b : Byte) : (s.setSound b).DT = s.DT := rfl
@[simp] theorem setSound_ST (b : Byte) : (s.setSound b).ST = b := rfl
@[simp] theorem setSound_FB (b : Byte) : (s.setSound b).FB = s.FB := rfl
@[simp] theorem setSound_KEY (b : Byte) : (s.setSound b).KEY = s.KEY := rfl
@[simp] theorem setSound_kbTracking (b : Byte) : (s.setSound b).kbTracking = s.kbTracking := rfl
@[simp] theorem setSound_kbLastReleased (b : Byte) : (s.setSound b).kbLastReleased = s.kbLastReleased := rfl
@[simp] theorem setSound_nextInstructionDeadline (b : Byte) : (s.setSound b).nextInstructionDeadline = s.nextInstructionDeadline := rfl
@[simp] theorem setSound_nextTimerDeadline (b : Byte) : (s.setSound b).nextTimerDeadline = s.nextTimerDeadline := rfl
@[simp] theorem setSound_runState (b : Byte) : (s.setSound b).runState = s.runState := rfl
@[simp] theorem setSound_hostMoves (b : Byte) : (s.setSound b).hostMoves = s.hostMoves := rfl
@[simp] theorem setSound_lastNow (b : Byte) : (s.setSound b).lastNow = s.lastNow := rfl
@[simp] theorem setSound_unitsPerMs (b : Byte) : (s.setSound b).unitsPerMs = s.unitsPerMs := rfl
@[simp] theorem setSound_timerPeriod (b : Byte) : (s.setSound b).timerPeriod = s.timerPeriod := rfl
@[simp] theorem setSound_glyphs (b : Byte) : (s.setSound b).glyphs = s.glyphs := rfl
@[simp] theorem setSound_draws (b : Byte) : (s.setSound b).draws = s.draws := rfl

/-! ## setFrame -/

@[simp] theorem setFrame_V (f : Framebuffer) : (s.setFrame f).V = s.V := rfl
@[simp] theorem setFrame_I (f : Framebuffer) : (s.setFrame f).I = s.I := rfl
@[simp] theorem setFrame_pc (f : Framebuffer) : (s.setFrame f).pc = s.pc := rfl
@[simp] theorem setFrame_sp (f : Framebuffer) : (s.setFrame f).sp = s.sp := rfl
@[simp] theorem setFrame_stack (f : Framebuffer) : (s.setFrame f).stack = s.stack := rfl
@[simp] theorem setFrame_mem (f : Framebuffer) : (s.setFrame f).mem = s.mem := rfl
@[simp] theorem setFrame_DT (f : Framebuffer) : (s.setFrame f).DT = s.DT := rfl
@[simp] theorem setFrame_ST (f : Framebuffer) : (s.setFrame f).ST = s.ST := rfl
@[simp] theorem setFrame_FB (f : Framebuffer) : (s.setFrame f).FB = f := rfl
@[simp] theorem setFrame_KEY (f : Framebuffer) : (s.setFrame f).KEY = s.KEY := rfl
@[simp] theorem setFrame_kbTracking (f : Framebuffer) : (s.setFrame f).kbTracking = s.kbTracking := rfl
@[simp] theorem setFrame_kbLastReleased (f : Framebuffer) : (s.setFrame f).kbLastReleased = s.kbLastReleased := rfl
@[simp] theorem setFrame_nextInstructionDeadline (f : Framebuffer) : (s.setFrame f).nextInstructionDeadline = s.nextInstructionDeadline := rfl
@[simp] theorem setFrame_nextTimerDeadline (f : Framebuffer) : (s.setFrame f).nextTimerDeadline = s.nextTimerDeadline := rfl
@[simp] theorem setFrame_runState (f : Framebuffer) : (s.setFrame f).runState = s.runState := rfl
@[simp] theorem setFrame_hostMoves (f : Framebuffer) : (s.setFrame f).hostMoves = s.hostMoves := rfl
@[simp] theorem setFrame_lastNow (f : Framebuffer) : (s.setFrame f).lastNow = s.lastNow := rfl
@[simp] theorem setFrame_unitsPerMs (f : Framebuffer) : (s.setFrame f).unitsPerMs = s.unitsPerMs := rfl
@[simp] theorem setFrame_timerPeriod (f : Framebuffer) : (s.setFrame f).timerPeriod = s.timerPeriod := rfl
@[simp] theorem setFrame_glyphs (f : Framebuffer) : (s.setFrame f).glyphs = s.glyphs := rfl
@[simp] theorem setFrame_draws (f : Framebuffer) : (s.setFrame f).draws = s.draws := rfl

/-! ## setTracker -/

@[simp] theorem setTracker_V (tracking : Bool) (released : Option Key) : (s.setTracker tracking released).V = s.V := rfl
@[simp] theorem setTracker_I (tracking : Bool) (released : Option Key) : (s.setTracker tracking released).I = s.I := rfl
@[simp] theorem setTracker_pc (tracking : Bool) (released : Option Key) : (s.setTracker tracking released).pc = s.pc := rfl
@[simp] theorem setTracker_sp (tracking : Bool) (released : Option Key) : (s.setTracker tracking released).sp = s.sp := rfl
@[simp] theorem setTracker_stack (tracking : Bool) (released : Option Key) : (s.setTracker tracking released).stack = s.stack := rfl
@[simp] theorem setTracker_mem (tracking : Bool) (released : Option Key) : (s.setTracker tracking released).mem = s.mem := rfl
@[simp] theorem setTracker_DT (tracking : Bool) (released : Option Key) : (s.setTracker tracking released).DT = s.DT := rfl
@[simp] theorem setTracker_ST (tracking : Bool) (released : Option Key) : (s.setTracker tracking released).ST = s.ST := rfl
@[simp] theorem setTracker_FB (tracking : Bool) (released : Option Key) : (s.setTracker tracking released).FB = s.FB := rfl
@[simp] theorem setTracker_KEY (tracking : Bool) (released : Option Key) : (s.setTracker tracking released).KEY = s.KEY := rfl
@[simp] theorem setTracker_kbTracking (tracking : Bool) (released : Option Key) : (s.setTracker tracking released).kbTracking = tracking := rfl
@[simp] theorem setTracker_kbLastReleased (tracking : Bool) (released : Option Key) : (s.setTracker tracking released).kbLastReleased = released := rfl
@[simp] theorem setTracker_nextInstructionDeadline (tracking : Bool) (released : Option Key) : (s.setTracker tracking released).nextInstructionDeadline = s.nextInstructionDeadline := rfl
@[simp] theorem setTracker_nextTimerDeadline (tracking : Bool) (released : Option Key) : (s.setTracker tracking released).nextTimerDeadline = s.nextTimerDeadline := rfl
@[simp] theorem setTracker_runState (tracking : Bool) (released : Option Key) : (s.setTracker tracking released).runState = s.runState := rfl
@[simp] theorem setTracker_hostMoves (tracking : Bool) (released : Option Key) : (s.setTracker tracking released).hostMoves = s.hostMoves := rfl
@[simp] theorem setTracker_lastNow (tracking : Bool) (released : Option Key) : (s.setTracker tracking released).lastNow = s.lastNow := rfl
@[simp] theorem setTracker_unitsPerMs (tracking : Bool) (released : Option Key) : (s.setTracker tracking released).unitsPerMs = s.unitsPerMs := rfl
@[simp] theorem setTracker_timerPeriod (tracking : Bool) (released : Option Key) : (s.setTracker tracking released).timerPeriod = s.timerPeriod := rfl
@[simp] theorem setTracker_glyphs (tracking : Bool) (released : Option Key) : (s.setTracker tracking released).glyphs = s.glyphs := rfl
@[simp] theorem setTracker_draws (tracking : Bool) (released : Option Key) : (s.setTracker tracking released).draws = s.draws := rfl

/-! ## countDraw -/

@[simp] theorem countDraw_V : (s.countDraw).V = s.V := rfl
@[simp] theorem countDraw_I : (s.countDraw).I = s.I := rfl
@[simp] theorem countDraw_pc : (s.countDraw).pc = s.pc := rfl
@[simp] theorem countDraw_sp : (s.countDraw).sp = s.sp := rfl
@[simp] theorem countDraw_stack : (s.countDraw).stack = s.stack := rfl
@[simp] theorem countDraw_mem : (s.countDraw).mem = s.mem := rfl
@[simp] theorem countDraw_DT : (s.countDraw).DT = s.DT := rfl
@[simp] theorem countDraw_ST : (s.countDraw).ST = s.ST := rfl
@[simp] theorem countDraw_FB : (s.countDraw).FB = s.FB := rfl
@[simp] theorem countDraw_KEY : (s.countDraw).KEY = s.KEY := rfl
@[simp] theorem countDraw_kbTracking : (s.countDraw).kbTracking = s.kbTracking := rfl
@[simp] theorem countDraw_kbLastReleased : (s.countDraw).kbLastReleased = s.kbLastReleased := rfl
@[simp] theorem countDraw_nextInstructionDeadline : (s.countDraw).nextInstructionDeadline = s.nextInstructionDeadline := rfl
@[simp] theorem countDraw_nextTimerDeadline : (s.countDraw).nextTimerDeadline = s.nextTimerDeadline := rfl
@[simp] theorem countDraw_runState : (s.countDraw).runState = s.runState := rfl
@[simp] theorem countDraw_hostMoves : (s.countDraw).hostMoves = s.hostMoves := rfl
@[simp] theorem countDraw_lastNow : (s.countDraw).lastNow = s.lastNow := rfl
@[simp] theorem countDraw_unitsPerMs : (s.countDraw).unitsPerMs = s.unitsPerMs := rfl
@[simp] theorem countDraw_timerPeriod : (s.countDraw).timerPeriod = s.timerPeriod := rfl
@[simp] theorem countDraw_glyphs : (s.countDraw).glyphs = s.glyphs := rfl
@[simp] theorem countDraw_draws : (s.countDraw).draws = s.draws + 1 := rfl

/-! ## push -/

@[simp] theorem push_V (a : Halfword) : (s.push a).V = s.V := rfl
@[simp] theorem push_I (a : Halfword) : (s.push a).I = s.I := rfl
@[simp] theorem push_pc (a : Halfword) : (s.push a).pc = s.pc := rfl
@[simp] theorem push_sp (a : Halfword) : (s.push a).sp = Fin.ofNat 17 (s.sp.val + 1) := rfl
@[simp] theorem push_stack (a : Halfword) : (s.push a).stack = s.stack.set (stackSlot s.sp.val) a := rfl
@[simp] theorem push_mem (a : Halfword) : (s.push a).mem = s.mem := rfl
@[simp] theorem push_DT (a : Halfword) : (s.push a).DT = s.DT := rfl
@[simp] theorem push_ST (a : Halfword) : (s.push a).ST = s.ST := rfl
@[simp] theorem push_FB (a : Halfword) : (s.push a).FB = s.FB := rfl
@[simp] theorem push_KEY (a : Halfword) : (s.push a).KEY = s.KEY := rfl
@[simp] theorem push_kbTracking (a : Halfword) : (s.push a).kbTracking = s.kbTracking := rfl
@[simp] theorem push_kbLastReleased (a : Halfword) : (s.push a).kbLastReleased = s.kbLastReleased := rfl
@[simp] theorem push_nextInstructionDeadline (a : Halfword) : (s.push a).nextInstructionDeadline = s.nextInstructionDeadline := rfl
@[simp] theorem push_nextTimerDeadline (a : Halfword) : (s.push a).nextTimerDeadline = s.nextTimerDeadline := rfl
@[simp] theorem push_runState (a : Halfword) : (s.push a).runState = s.runState := rfl
@[simp] theorem push_hostMoves (a : Halfword) : (s.push a).hostMoves = s.hostMoves := rfl
@[simp] theorem push_lastNow (a : Halfword) : (s.push a).lastNow = s.lastNow := rfl
@[simp] theorem push_unitsPerMs (a : Halfword) : (s.push a).unitsPerMs = s.unitsPerMs := rfl
@[simp] theorem push_timerPeriod (a : Halfword) : (s.push a).timerPeriod = s.timerPeriod := rfl
@[simp] theorem push_glyphs (a : Halfword) : (s.push a).glyphs = s.glyphs := rfl
@[simp] theorem push_draws (a : Halfword) : (s.push a).draws = s.draws := rfl

/-! ## dropTop -/

@[simp] theorem dropTop_V : (s.dropTop).V = s.V := rfl
@[simp] theorem dropTop_I : (s.dropTop).I = s.I := rfl
@[simp] theorem dropTop_pc : (s.dropTop).pc = s.pc := rfl
@[simp] theorem dropTop_sp : (s.dropTop).sp = Fin.ofNat 17 (s.sp.val - 1) := rfl
@[simp] theorem dropTop_stack : (s.dropTop).stack = s.stack := rfl
@[simp] theorem dropTop_mem : (s.dropTop).mem = s.mem := rfl
@[simp] theorem dropTop_DT : (s.dropTop).DT = s.DT := rfl
@[simp] theorem dropTop_ST : (s.dropTop).ST = s.ST := rfl
@[simp] theorem dropTop_FB : (s.dropTop).FB = s.FB := rfl
@[simp] theorem dropTop_KEY : (s.dropTop).KEY = s.KEY := rfl
@[simp] theorem dropTop_kbTracking : (s.dropTop).kbTracking = s.kbTracking := rfl
@[simp] theorem dropTop_kbLastReleased : (s.dropTop).kbLastReleased = s.kbLastReleased := rfl
@[simp] theorem dropTop_nextInstructionDeadline : (s.dropTop).nextInstructionDeadline = s.nextInstructionDeadline := rfl
@[simp] theorem dropTop_nextTimerDeadline : (s.dropTop).nextTimerDeadline = s.nextTimerDeadline := rfl
@[simp] theorem dropTop_runState : (s.dropTop).runState = s.runState := rfl
@[simp] theorem dropTop_hostMoves : (s.dropTop).hostMoves = s.hostMoves := rfl
@[simp] theorem dropTop_lastNow : (s.dropTop).lastNow = s.lastNow := rfl
@[simp] theorem dropTop_unitsPerMs : (s.dropTop).unitsPerMs = s.unitsPerMs := rfl
@[simp] theorem dropTop_timerPeriod : (s.dropTop).timerPeriod = s.timerPeriod := rfl
@[simp] theorem dropTop_glyphs : (s.dropTop).glyphs = s.glyphs := rfl
@[simp] theorem dropTop_draws : (s.dropTop).draws = s.draws := rfl

/-! ## takeFault -/

@[simp] theorem takeFault_V (ia : Halfword) (cause : Cause) (info : FaultInfo) :
    (takeFault ia cause info s).V = s.V := rfl
@[simp] theorem takeFault_I (ia : Halfword) (cause : Cause) (info : FaultInfo) :
    (takeFault ia cause info s).I = s.I := rfl
@[simp] theorem takeFault_pc (ia : Halfword) (cause : Cause) (info : FaultInfo) :
    (takeFault ia cause info s).pc = ia := rfl
@[simp] theorem takeFault_sp (ia : Halfword) (cause : Cause) (info : FaultInfo) :
    (takeFault ia cause info s).sp = s.sp := rfl
@[simp] theorem takeFault_stack (ia : Halfword) (cause : Cause) (info : FaultInfo) :
    (takeFault ia cause info s).stack = s.stack := rfl
@[simp] theorem takeFault_mem (ia : Halfword) (cause : Cause) (info : FaultInfo) :
    (takeFault ia cause info s).mem = s.mem := rfl
@[simp] theorem takeFault_DT (ia : Halfword) (cause : Cause) (info : FaultInfo) :
    (takeFault ia cause info s).DT = s.DT := rfl
@[simp] theorem takeFault_ST (ia : Halfword) (cause : Cause) (info : FaultInfo) :
    (takeFault ia cause info s).ST = s.ST := rfl
@[simp] theorem takeFault_FB (ia : Halfword) (cause : Cause) (info : FaultInfo) :
    (takeFault ia cause info s).FB = s.FB := rfl
@[simp] theorem takeFault_KEY (ia : Halfword) (cause : Cause) (info : FaultInfo) :
    (takeFault ia cause info s).KEY = s.KEY := rfl
@[simp] theorem takeFault_kbTracking (ia : Halfword) (cause : Cause) (info : FaultInfo) :
    (takeFault ia cause info s).kbTracking = s.kbTracking := rfl
@[simp] theorem takeFault_kbLastReleased (ia : Halfword) (cause : Cause) (info : FaultInfo) :
    (takeFault ia cause info s).kbLastReleased = s.kbLastReleased := rfl
@[simp] theorem takeFault_nextInstructionDeadline (ia : Halfword) (cause : Cause) (info : FaultInfo) :
    (takeFault ia cause info s).nextInstructionDeadline = s.nextInstructionDeadline := rfl
@[simp] theorem takeFault_nextTimerDeadline (ia : Halfword) (cause : Cause) (info : FaultInfo) :
    (takeFault ia cause info s).nextTimerDeadline = s.nextTimerDeadline := rfl
@[simp] theorem takeFault_runState (ia : Halfword) (cause : Cause) (info : FaultInfo) :
    (takeFault ia cause info s).runState = .halted { cause := cause, pc := ia, word := s.wordAt ia, info := info } := rfl
@[simp] theorem takeFault_hostMoves (ia : Halfword) (cause : Cause) (info : FaultInfo) :
    (takeFault ia cause info s).hostMoves = s.hostMoves := rfl
@[simp] theorem takeFault_lastNow (ia : Halfword) (cause : Cause) (info : FaultInfo) :
    (takeFault ia cause info s).lastNow = s.lastNow := rfl
@[simp] theorem takeFault_unitsPerMs (ia : Halfword) (cause : Cause) (info : FaultInfo) :
    (takeFault ia cause info s).unitsPerMs = s.unitsPerMs := rfl
@[simp] theorem takeFault_timerPeriod (ia : Halfword) (cause : Cause) (info : FaultInfo) :
    (takeFault ia cause info s).timerPeriod = s.timerPeriod := rfl
@[simp] theorem takeFault_glyphs (ia : Halfword) (cause : Cause) (info : FaultInfo) :
    (takeFault ia cause info s).glyphs = s.glyphs := rfl
@[simp] theorem takeFault_draws (ia : Halfword) (cause : Cause) (info : FaultInfo) :
    (takeFault ia cause info s).draws = s.draws := rfl

end Sys2Proof.Machine
end

