-- ==== Sys2Proof/Laws/Ops.lean ====
section
/-! SUPPORT. One lemma for each shared operation on registers, `pc`, the stack and faults: all it can do. -/

namespace Sys2Proof.Machine

/-! ## Registers -/

theorem reg_eq (s : State) (r : Reg) : s.reg r = s.V[r] := rfl

@[simp] theorem reg_setReg_same (s : State) (r : Reg) (b : Byte) : (s.setReg r b).reg r = b := by
  simp [State.reg]

theorem reg_setReg_other (s : State) {r q : Reg} (b : Byte) (h : q ≠ r) : (s.setReg r b).reg q = s.reg q := by
  have : r.val ≠ q.val := fun e => h (Fin.ext e.symm)
  simp [State.reg, this]

/-- Reading any register after writing one. -/
theorem setReg_V_get (s : State) (r q : Reg) (b : Byte) :
    (s.setReg r b).V[q] = if q = r then b else s.V[q] := by
  by_cases h : q = r
  · subst h
    simp
  · simpa [State.reg, h] using reg_setReg_other s b h

/-- The total read of the register file that the transfers use, at a register's number. -/
@[simp] theorem getD_reg (V : Vector Byte 16) (r : Reg) : V.getD r.val 0 = V[r] := by
  simp [Vector.getD]

/-! ## Program counter -/

theorem skipIf_eq (s : State) (c : Bool) :
    s.skipIf c = { s with pc := if c then s.pc + 2 else s.pc } := by
  cases c <;> rfl

/-! ## Stack -/

@[simp] theorem stackSlot_val {n : Nat} (h : n < 16) : (stackSlot n).val = n := by
  simp [stackSlot, Nat.mod_eq_of_lt h]

theorem push_sp_val (s : State) (a : Halfword) (h : s.sp.val < 16) : (s.push a).sp.val = s.sp.val + 1 := by
  simp only [push_sp, Fin.val_ofNat]
  omega

/-- Reading any stack entry after a push. -/
theorem push_stack_get (s : State) (a : Halfword) (h : s.sp.val < 16) (j : Fin 16) :
    (s.push a).stack[j] = if j.val = s.sp.val then a else s.stack[j] := by
  by_cases e : j.val = s.sp.val
  · simp [e, stackSlot_val h]
  · simp [stackSlot_val h, e, Ne.symm e]

theorem dropTop_sp_val (s : State) : s.dropTop.sp.val = s.sp.val - 1 := by
  simp only [dropTop_sp, Fin.val_ofNat]
  omega

theorem topOfStack_eq (s : State) (j : Fin 16) (h : j.val + 1 = s.sp.val) : s.topOfStack = s.stack[j] := by
  have e : stackSlot (s.sp.val - 1) = j := Fin.ext (by rw [stackSlot_val (by omega)]; omega)
  simp [State.topOfStack, e]

/-! ## Fetching a word -/

theorem wordAt_of_le (s : State) {a : Halfword} (h : a.toNat ≤ 4094) :
    s.wordAt a = some (halfwordOfBytes (s.mem.read a.toNat) (s.mem.read (a.toNat + 1))) := by
  have : a.toNat + 2 ≤ 4096 := by omega
  simp [State.wordAt, this]

theorem wordAt_of_gt (s : State) {a : Halfword} (h : a.toNat > 4094) : s.wordAt a = none := by
  have : ¬ a.toNat + 2 ≤ 4096 := by omega
  simp [State.wordAt, this]

/-- The word at an address depends on the memory alone. -/
theorem wordAt_congr {s t : State} (h : s.mem = t.mem) (a : Halfword) : s.wordAt a = t.wordAt a := by
  simp [State.wordAt, h]

/-! ## Checked accesses and faults -/

/-- A checked access takes its effect or a fault, by the exact range alone. -/
theorem withRange_eq (len : Nat) (k : State → State) (s : State) :
    (s.I.toNat + len ≤ 4096 ∧ withRange len k s = .next (k s)) ∨
    (s.I.toNat + len > 4096 ∧
      withRange len k s = .next (takeFault (s.pc - 2) .memOutOfRange (.access s.I len) s)) := by
  by_cases h : s.I.toNat + len ≤ 4096
  · exact .inl ⟨h, by simp [withRange, h]⟩
  · exact .inr ⟨by omega, by simp [withRange, raise, h]⟩

/-! ## Operands and flags, in numbers -/

@[simp] theorem addressOperand_toNat (a : Addr) : (addressOperand a).toNat = a.toNat := by
  simp only [addressOperand, BitVec.toNat_setWidth]
  omega

@[simp] theorem offsetAddress_toNat (a : Addr) (b : Byte) :
    (offsetAddress a b).toNat = a.toNat + b.toNat := by
  simp only [offsetAddress, BitVec.toNat_add, BitVec.toNat_setWidth]
  omega

@[simp] theorem indexPlus_toNat (a : Halfword) (b : Byte) :
    (indexPlus a b).toNat = (a.toNat + b.toNat) % 65536 := by
  simp only [indexPlus, BitVec.toNat_add, BitVec.toNat_setWidth]
  omega

@[simp] theorem glyphAddress_toNat (b : Byte) : (glyphAddress b).toNat = b.toNat * 5 := by
  simp only [glyphAddress, BitVec.toNat_ofNat, Config.glyphSize]
  omega

@[simp] theorem hundreds_toNat (b : Byte) : (hundreds b).toNat = b.toNat / 100 := by
  simp only [hundreds, BitVec.toNat_ofNat]
  omega

@[simp] theorem tens_toNat (b : Byte) : (tens b).toNat = b.toNat / 10 % 10 := by
  simp only [tens, BitVec.toNat_ofNat]
  omega

@[simp] theorem ones_toNat (b : Byte) : (ones b).toNat = b.toNat % 10 := by
  simp only [ones, BitVec.toNat_ofNat]
  omega

theorem carryFlag_eq (a b : Byte) : carryFlag a b = if a.toNat + b.toNat > 255 then 1 else 0 := by
  simp [carryFlag, flagByte]

theorem noBorrowFlag_eq (a b : Byte) : noBorrowFlag a b = if a.toNat ≥ b.toNat then 1 else 0 := by
  by_cases h : b.toNat ≤ a.toNat
  · simp [noBorrowFlag, flagByte, h]
  · simp [noBorrowFlag, flagByte, h]

theorem shiftRightFlag_toNat (a : Byte) : (shiftRightFlag a).toNat = a.toNat % 2 := by
  simp [shiftRightFlag, BitVec.toNat_and, Nat.and_one_is_mod]

theorem shiftLeftFlag_eq : ∀ a : Byte, shiftLeftFlag a = if a.toNat ≥ 128 then 1 else 0 := by decide

end Sys2Proof.Machine
end

