-- ==== Sys2Proof/Laws/Exec.lean ====
section
/-! SUPPORT. The next state of each operation whose meaning has cases: `exec` answers it, in one equation. The next state
of every other operation is `exec` itself, by `rfl`. -/

namespace Sys2Proof.Machine

/-- The state after a checked access of `len` bytes at `I` with effect `k`. -/
theorem withRange_next (len : Nat) (k : State → State) (s : State) :
    withRange len k s = .next
      (if s.I.toNat + len ≤ 4096 then k s else takeFault (s.pc - 2) .memOutOfRange (.access s.I len) s) := by
  by_cases h : s.I.toNat + len ≤ 4096 <;> simp [withRange, raise, h]

/-- The state after a key skip. -/
theorem skipOnKey_next (x : Reg) (wanted : Bool) (s : State) :
    skipOnKey x wanted s = .next
      (if s.V[x].toNat ≥ 16 then takeFault (s.pc - 2) .keyOutOfRange (.key s.V[x]) s
       else s.skipIf (s.KEY[Fin.ofNat 16 s.V[x].toNat] == wanted)) := by
  by_cases h : s.V[x].toNat ≥ 16 <;> simp only [skipOnKey, State.reg, State.isPressed, raise, h, if_true, if_false]

theorem exec_call_next (addr : Addr) (s : State) :
    exec (.call addr) s = .next
      (if s.sp.val = 16 then takeFault (s.pc - 2) .stackOverflow (.sp s.sp) s
       else (s.push s.pc).setPc (addressOperand addr)) := by
  by_cases h : s.sp.val = 16 <;> simp [exec, execCall, raise, h]

theorem exec_ret_next (s : State) :
    exec .ret s = .next
      (if s.sp.val = 0 then takeFault (s.pc - 2) .stackUnderflow (.sp s.sp) s
       else s.dropTop.setPc s.topOfStack) := by
  by_cases h : s.sp.val = 0 <;> simp [exec, execReturn, raise, h]

theorem exec_drawSprite_next (x y : Reg) (n : Nibble) (s : State) :
    exec (.drawSprite x y n) s = .next
      (if s.I.toNat + n.toNat ≤ 4096 then drawAtIndex x y n.toNat s
       else takeFault (s.pc - 2) .memOutOfRange (.access s.I n.toNat) s) :=
  withRange_next n.toNat (drawAtIndex x y n.toNat) s

theorem exec_storeBCD_next (x : Reg) (s : State) :
    exec (.storeBCD x) s = .next
      (if s.I.toNat + 3 ≤ 4096 then storeDigits x s
       else takeFault (s.pc - 2) .memOutOfRange (.access s.I 3) s) :=
  withRange_next 3 (storeDigits x) s

theorem exec_regDump_next (x : Reg) (s : State) :
    exec (.regDump x) s = .next
      (if s.I.toNat + regCount x ≤ 4096 then dumpFirst x s
       else takeFault (s.pc - 2) .memOutOfRange (.access s.I (regCount x)) s) :=
  withRange_next (regCount x) (dumpFirst x) s

theorem exec_regLoad_next (x : Reg) (s : State) :
    exec (.regLoad x) s = .next
      (if s.I.toNat + regCount x ≤ 4096 then loadFirst x s
       else takeFault (s.pc - 2) .memOutOfRange (.access s.I (regCount x)) s) :=
  withRange_next (regCount x) (loadFirst x) s

theorem exec_skipKeyPressed_next (x : Reg) (s : State) :
    exec (.skipKeyPressed x) s = .next
      (if s.V[x].toNat ≥ 16 then takeFault (s.pc - 2) .keyOutOfRange (.key s.V[x]) s
       else s.skipIf (s.KEY[Fin.ofNat 16 s.V[x].toNat] == true)) :=
  skipOnKey_next x true s

theorem exec_skipKeyNotPressed_next (x : Reg) (s : State) :
    exec (.skipKeyNotPressed x) s = .next
      (if s.V[x].toNat ≥ 16 then takeFault (s.pc - 2) .keyOutOfRange (.key s.V[x]) s
       else s.skipIf (s.KEY[Fin.ofNat 16 s.V[x].toNat] == false)) :=
  skipOnKey_next x false s

theorem exec_getKeyPress_next (x : Reg) (s : State) :
    exec (.getKeyPress x) s = .next
      (if s.kbTracking then
         match s.kbLastReleased with
         | some k => s.disarm.setReg x (BitVec.ofNat 8 k.val)
         | none => s.repeatInstruction
       else s.arm.repeatInstruction) := by
  by_cases ht : s.kbTracking = true
  · cases hk : s.kbLastReleased <;> simp [exec, execGetKeyPress, State.lastReleased, ht, hk]
  · simp [exec, execGetKeyPress, ht]

end Sys2Proof.Machine
end

