-- ==== Sys2Proof/Laws/Memory.lean ====
section
/-! SUPPORT. The memory laws: a read after a write, and that every memory operation keeps the canonical form. -/

namespace Sys2Proof.Machine

/-- Past the 80 glyph bytes an unlisted address reads as 0. -/
theorem resetByte_of_ge {a : Nat} (h : 80 ≤ a) : resetByte a = 0 := by
  have : Config.glyphs.length = 80 := by decide
  simp [resetByte, this, h]

/-- A canonical memory from `lo` on is canonical from any lower address on. -/
theorem Memory.wfFrom_mono {lo lo' : Nat} (h : lo' ≤ lo) {m : Memory} (w : Memory.wfFrom lo m = true) :
    Memory.wfFrom lo' m = true := by
  cases m with
  | nil => rfl
  | cons c t =>
    simp only [Memory.wfFrom, Bool.and_eq_true, decide_eq_true_eq] at w ⊢
    exact ⟨⟨⟨Nat.le_trans h w.1.1.1, w.1.1.2⟩, w.1.2⟩, w.2⟩

/-- Below its first address a canonical memory reads as reset left it. -/
theorem Memory.read_below {lo a : Nat} {m : Memory} (w : Memory.wfFrom lo m = true) (h : a < lo) :
    m.read a = resetByte a := by
  cases m with
  | nil => rfl
  | cons c t =>
    simp only [Memory.wfFrom, Bool.and_eq_true, decide_eq_true_eq] at w
    have : a < c.1 := by omega
    simp [Memory.read, this]

/-- Reading any address after writing one. -/
theorem Memory.read_write_from {lo : Nat} {m : Memory} (w : Memory.wfFrom lo m = true) (a a' : Nat) (b : Byte) :
    (m.write a b).read a' = if a' = a then b else m.read a' := by
  induction m generalizing lo with
  | nil =>
    by_cases hb : b = resetByte a <;> by_cases ha : a' = a <;> simp_all [Memory.write, Memory.read]
  | cons c t ih =>
    obtain ⟨k, v⟩ := c
    simp only [Memory.wfFrom, Bool.and_eq_true, decide_eq_true_eq] at w
    have below : ∀ x, x ≤ k → Memory.read t x = resetByte x := fun x hx => Memory.read_below w.2 (by omega)
    rcases Nat.lt_trichotomy a k with h | h | h
    · rcases Nat.lt_trichotomy a' a with g | g | g <;> by_cases hb : b = resetByte a
      · simp [Memory.write, h, hb, Nat.ne_of_lt g]
      · have : a' < k := by omega
        simp [Memory.write, Memory.read, h, hb, g, this, Nat.ne_of_lt g]
      · simp [Memory.write, Memory.read, h, hb, g]
      · simp [Memory.write, Memory.read, h, hb, g]
      · simp [Memory.write, h, hb, Nat.ne_of_gt g]
      · simp [Memory.write, Memory.read, h, hb, Nat.not_lt_of_gt g, Nat.ne_of_gt g]
    · subst h
      rcases Nat.lt_trichotomy a' a with g | g | g <;> by_cases hb : b = resetByte a
      · simp [Memory.write, Memory.read, hb, g, Nat.ne_of_lt g, below a' (by omega)]
      · simp [Memory.write, Memory.read, hb, g, Nat.ne_of_lt g]
      · simp [Memory.write, hb, g, below a (by omega)]
      · simp [Memory.write, Memory.read, hb, g]
      · simp [Memory.write, Memory.read, hb, Nat.not_lt_of_gt g, Nat.ne_of_gt g]
      · simp [Memory.write, Memory.read, hb, Nat.not_lt_of_gt g, Nat.ne_of_gt g]
    · have hw : Memory.write ((k, v) :: t) a b = (k, v) :: Memory.write t a b := by
        simp [Memory.write, Nat.not_lt_of_gt h, Nat.ne_of_gt h]
      rw [hw]
      rcases Nat.lt_trichotomy a' k with g | g | g
      · have : a' ≠ a := by omega
        simp [Memory.read, g, this]
      · have : k ≠ a := by omega
        simp [Memory.read, g, this]
      · simp [Memory.read, Nat.not_lt_of_gt g, Nat.ne_of_gt g, ih w.2]

/-- A write keeps a memory canonical. -/
theorem Memory.wfFrom_write {lo : Nat} {m : Memory} (w : Memory.wfFrom lo m = true) {a : Nat} (hlo : lo ≤ a)
    (ha : a < 4096) (b : Byte) : Memory.wfFrom lo (m.write a b) = true := by
  induction m generalizing lo with
  | nil =>
    by_cases hb : b = resetByte a <;> simp [Memory.write, Memory.wfFrom, hb, hlo, ha]
  | cons c t ih =>
    obtain ⟨k, v⟩ := c
    simp only [Memory.wfFrom, Bool.and_eq_true, decide_eq_true_eq] at w
    have lower : Memory.wfFrom lo t = true := Memory.wfFrom_mono (by omega) w.2
    simp only [Memory.write]
    split_ifs with h1 h2 h3 h4
    · simp [Memory.wfFrom, w]
    · have := w.1.1.1
      simp [Memory.wfFrom, w.1.1.2, w.1.2, w.2, hlo, ha, h2]
      omega
    · exact lower
    · subst h3
      simp [Memory.wfFrom, hlo, ha, h4, w.2]
    · have := ih (lo := k + 1) w.2 (by omega)
      simp [Memory.wfFrom, w.1.1.1, w.1.1.2, w.1.2, this]

/-- Reading any address after writing one. -/
theorem Memory.read_write {m : Memory} (w : m.wf = true) (a a' : Nat) (b : Byte) :
    (m.write a b).read a' = if a' = a then b else m.read a' := Memory.read_write_from w a a' b

/-- A write keeps the canonical form. -/
theorem Memory.wf_write {m : Memory} (w : m.wf = true) {a : Nat} (ha : a < 4096) (b : Byte) :
    (m.write a b).wf = true := Memory.wfFrom_write w (Nat.zero_le a) ha b

/-- Writing bytes at ascending addresses keeps the canonical form. -/
theorem Memory.wf_writeBytes (bs : List Byte) : ∀ {m : Memory} {a : Nat}, m.wf = true →
    a + bs.length ≤ 4096 → (m.writeBytes a bs).wf = true := by
  induction bs with
  | nil => exact fun w _ => w
  | cons b bs ih =>
    intro m a w h
    simp only [List.length_cons] at h
    exact ih (Memory.wf_write w (by omega) b) (by omega)

/-- Reading any address after writing bytes at ascending addresses. -/
theorem Memory.read_writeBytes (bs : List Byte) : ∀ {m : Memory} {a : Nat}, m.wf = true →
    a + bs.length ≤ 4096 → ∀ a',
    (m.writeBytes a bs).read a' =
      if a ≤ a' ∧ a' < a + bs.length then bs.getD (a' - a) 0 else m.read a' := by
  induction bs with
  | nil =>
    intro m a _ _ a'
    have : ¬ (a ≤ a' ∧ a' < a) := by omega
    simp [Memory.writeBytes, this]
  | cons b bs ih =>
    intro m a w h a'
    simp only [List.length_cons] at h ⊢
    rw [Memory.writeBytes, ih (Memory.wf_write w (by omega) b) (by omega), Memory.read_write w]
    rcases Nat.lt_trichotomy a' a with g | g | g
    · have h1 : ¬ (a + 1 ≤ a' ∧ a' < a + 1 + bs.length) := by omega
      have h2 : ¬ (a ≤ a' ∧ a' < a + (bs.length + 1)) := by omega
      rw [if_neg h1, if_neg h2, if_neg (Nat.ne_of_lt g)]
    · subst g
      simp
    · have h3 : a' - a = (a' - (a + 1)) + 1 := by omega
      by_cases h4 : a' < a + (bs.length + 1)
      · have h1 : a + 1 ≤ a' ∧ a' < a + 1 + bs.length := by omega
        have h2 : a ≤ a' ∧ a' < a + (bs.length + 1) := by omega
        simp [h1, h2, h3]
      · have h1 : ¬ (a + 1 ≤ a' ∧ a' < a + 1 + bs.length) := by omega
        have h2 : ¬ (a ≤ a' ∧ a' < a + (bs.length + 1)) := by omega
        have h5 : a' ≠ a := by omega
        rw [if_neg h1, if_neg h2, if_neg h5]

/-- The bytes of a sprite are the bytes at ascending addresses. -/
theorem Memory.readBytes_eq (m : Memory) (n : Nat) : ∀ a,
    m.readBytes a n = (List.range n).map (fun r => m.read (a + r)) := by
  induction n with
  | zero => intro a; rfl
  | succ n ih =>
    intro a
    rw [Memory.readBytes, ih, List.range_succ_eq_map, List.map_cons, List.map_map]
    simp [Function.comp_def, Nat.add_comm, Nat.add_left_comm]

/-- Dumping registers keeps the canonical form. -/
theorem wf_dumpRegs (V : Vector Byte 16) (base n : Nat) {m : Memory} (w : m.wf = true)
    (h : base + n ≤ 4096) : (dumpRegs V base n m).wf = true := by
  induction n with
  | zero => exact w
  | succ n ih => exact Memory.wf_write (ih (by omega)) (by omega) _

/-- Reading any address after dumping `n` registers at `base`. -/
theorem read_dumpRegs (V : Vector Byte 16) (base n : Nat) {m : Memory} (w : m.wf = true)
    (h : base + n ≤ 4096) (a : Nat) :
    (dumpRegs V base n m).read a =
      if base ≤ a ∧ a < base + n then V.getD (a - base) 0 else m.read a := by
  induction n with
  | zero =>
    have : ¬ (base ≤ a ∧ a < base) := by omega
    simp [dumpRegs, this]
  | succ n ih =>
    rw [dumpRegs, Memory.read_write (wf_dumpRegs V base n w (by omega)), ih (by omega)]
    by_cases e : a = base + n
    · subst e
      simp
    · by_cases h1 : base ≤ a ∧ a < base + n
      · have h2 : base ≤ a ∧ a < base + (n + 1) := by omega
        simp [e, h1, h2]
      · have h2 : ¬ (base ≤ a ∧ a < base + (n + 1)) := by omega
        simp [e, h1, h2]

/-- Reading any register after loading the first `n` from `base`. -/
theorem get_loadRegs (m : Memory) (base n : Nat) (V : Vector Byte 16) (r : Reg) :
    (loadRegs m base n V)[r] = if r.val < n then m.read (base + r.val) else V[r] := by
  induction n with
  | zero => simp [loadRegs]
  | succ n ih =>
    have ih' : (loadRegs m base n V)[r.val] = if r.val < n then m.read (base + r.val) else V[r] := ih
    by_cases e : n = r.val
    · subst e
      simp [loadRegs]
    · have : (r.val < n + 1) = (r.val < n) := by
        apply propext
        omega
      simp [loadRegs, e, this, ih']

end Sys2Proof.Machine
end

