-- ==== Sys2Proof/Laws/PerInstr.lean ====
section
/-! SUPPORT. The laws stated of every operation, one lemma per constructor of `Instr`. -/

namespace Sys2Proof.Laws

/-! ## The operand positions that occur -/

theorem fits_none : operandsFit [] [] = true := rfl

theorem fits_address (addr : Addr) : operandsFit [.address] [addr.toNat] = true := by
  simp [operandsFit, OperandKind.bound, addr.isLt]

theorem fits_register (x : Reg) : operandsFit [.register] [x.val] = true := by
  simp [operandsFit, OperandKind.bound]

theorem fits_registerImmediate (x : Reg) (val : Byte) :
    operandsFit [.register, .immediate] [x.val, val.toNat] = true := by
  simp [operandsFit, OperandKind.bound, val.isLt]

theorem fits_registers (x y : Reg) : operandsFit [.register, .register] [x.val, y.val] = true := by
  simp [operandsFit, OperandKind.bound]

theorem fits_registersCount (x y : Reg) (n : Nibble) :
    operandsFit [.register, .register, .count] [x.val, y.val, n.toNat] = true := by
  simp [operandsFit, OperandKind.bound, n.isLt]

/-! ## The words that a row selects, by format -/

theorem rowSelects_encodeA (name : String) (op1 : Nibble) (addr : Addr) :
    rowSelects (name, 0xF000, encodeA op1 0) (encodeA op1 addr) = true := by
  simp only [rowSelects, beq_iff_eq]
  apply BitVec.eq_of_getLsbD_eq
  intro b hb
  simp only [BitVec.getLsbD_and, encodeA_getLsbD]
  interval_cases b <;> simp

theorem rowSelects_encodeXN (name : String) (op1 : Nibble) (x : Reg) (nn : Byte) :
    rowSelects (name, 0xF000, encodeXN op1 0 0) (encodeXN op1 x nn) = true := by
  simp only [rowSelects, beq_iff_eq]
  apply BitVec.eq_of_getLsbD_eq
  intro b hb
  simp only [BitVec.getLsbD_and, encodeXN_getLsbD]
  interval_cases b <;> simp

theorem rowSelects_encodeX (name : String) (op1 : Nibble) (x : Reg) (nn : Byte) :
    rowSelects (name, 0xF0FF, encodeXN op1 0 nn) (encodeXN op1 x nn) = true := by
  simp only [rowSelects, beq_iff_eq]
  apply BitVec.eq_of_getLsbD_eq
  intro b hb
  simp only [BitVec.getLsbD_and, encodeXN_getLsbD]
  interval_cases b <;> simp

theorem rowSelects_encodeXYN (name : String) (op1 : Nibble) (x y : Reg) (n : Nibble) :
    rowSelects (name, 0xF000, encodeXYN op1 0 0 0) (encodeXYN op1 x y n) = true := by
  simp only [rowSelects, beq_iff_eq]
  apply BitVec.eq_of_getLsbD_eq
  intro b hb
  simp only [BitVec.getLsbD_and, encodeXYN_getLsbD]
  interval_cases b <;> simp

theorem rowSelects_encodeXY (name : String) (op1 : Nibble) (x y : Reg) (n : Nibble) :
    rowSelects (name, 0xF00F, encodeXYN op1 0 0 n) (encodeXYN op1 x y n) = true := by
  simp only [rowSelects, beq_iff_eq]
  apply BitVec.eq_of_getLsbD_eq
  intro b hb
  simp only [BitVec.getLsbD_and, encodeXYN_getLsbD]
  interval_cases b <;> simp

/-! ## OperandsInRange: every operand of an operation lies in the range of its position (rules R73, R92) -/

/-- The operation is well formed. -/
def OperandsInRange.Statement (i : Instr) : Prop := i.wellFormed = true

theorem OperandsInRange.clearDisplay : Statement .clearDisplay :=
  fits_none

theorem OperandsInRange.ret : Statement .ret :=
  fits_none

theorem OperandsInRange.jump (addr : Addr) : Statement (.jump addr) :=
  fits_address addr

theorem OperandsInRange.call (addr : Addr) : Statement (.call addr) :=
  fits_address addr

theorem OperandsInRange.skipEqVal (x : Reg) (val : Byte) : Statement (.skipEqVal x val) :=
  fits_registerImmediate x val

theorem OperandsInRange.skipNotEqVal (x : Reg) (val : Byte) : Statement (.skipNotEqVal x val) :=
  fits_registerImmediate x val

theorem OperandsInRange.skipEq (x y : Reg) : Statement (.skipEq x y) :=
  fits_registers x y

theorem OperandsInRange.setVal (x : Reg) (val : Byte) : Statement (.setVal x val) :=
  fits_registerImmediate x val

theorem OperandsInRange.addVal (x : Reg) (val : Byte) : Statement (.addVal x val) :=
  fits_registerImmediate x val

theorem OperandsInRange.copy (x y : Reg) : Statement (.copy x y) :=
  fits_registers x y

theorem OperandsInRange.or (x y : Reg) : Statement (.or x y) :=
  fits_registers x y

theorem OperandsInRange.and (x y : Reg) : Statement (.and x y) :=
  fits_registers x y

theorem OperandsInRange.xor (x y : Reg) : Statement (.xor x y) :=
  fits_registers x y

theorem OperandsInRange.add (x y : Reg) : Statement (.add x y) :=
  fits_registers x y

theorem OperandsInRange.subtract (x y : Reg) : Statement (.subtract x y) :=
  fits_registers x y

theorem OperandsInRange.shiftRight (x : Reg) : Statement (.shiftRight x) :=
  fits_register x

theorem OperandsInRange.difference (x y : Reg) : Statement (.difference x y) :=
  fits_registers x y

theorem OperandsInRange.shiftLeft (x : Reg) : Statement (.shiftLeft x) :=
  fits_register x

theorem OperandsInRange.skipNotEq (x y : Reg) : Statement (.skipNotEq x y) :=
  fits_registers x y

theorem OperandsInRange.setIndex (addr : Addr) : Statement (.setIndex addr) :=
  fits_address addr

theorem OperandsInRange.jumpOffset (addr : Addr) : Statement (.jumpOffset addr) :=
  fits_address addr

theorem OperandsInRange.rand (x : Reg) (val : Byte) : Statement (.rand x val) :=
  fits_registerImmediate x val

theorem OperandsInRange.drawSprite (x y : Reg) (n : Nibble) : Statement (.drawSprite x y n) :=
  fits_registersCount x y n

theorem OperandsInRange.skipKeyPressed (x : Reg) : Statement (.skipKeyPressed x) :=
  fits_register x

theorem OperandsInRange.skipKeyNotPressed (x : Reg) : Statement (.skipKeyNotPressed x) :=
  fits_register x

theorem OperandsInRange.getDelayTimer (x : Reg) : Statement (.getDelayTimer x) :=
  fits_register x

theorem OperandsInRange.getKeyPress (x : Reg) : Statement (.getKeyPress x) :=
  fits_register x

theorem OperandsInRange.setDelayTimer (x : Reg) : Statement (.setDelayTimer x) :=
  fits_register x

theorem OperandsInRange.setSoundTimer (x : Reg) : Statement (.setSoundTimer x) :=
  fits_register x

theorem OperandsInRange.addIndex (x : Reg) : Statement (.addIndex x) :=
  fits_register x

theorem OperandsInRange.setIndexCharacter (x : Reg) : Statement (.setIndexCharacter x) :=
  fits_register x

theorem OperandsInRange.storeBCD (x : Reg) : Statement (.storeBCD x) :=
  fits_register x

theorem OperandsInRange.regDump (x : Reg) : Statement (.regDump x) :=
  fits_register x

theorem OperandsInRange.regLoad (x : Reg) : Statement (.regLoad x) :=
  fits_register x

/-! ## EncodesItsRow: the word of an operation is one of its own row of the opcode map (rule R75) -/

/-- The row of the operation's name selects its word. -/
def EncodesItsRow.Statement (i : Instr) : Prop :=
  ∃ row ∈ opcodeTable, row.1 = i.source.mnemonic ∧ rowSelects row (encode i) = true

theorem EncodesItsRow.clearDisplay : Statement .clearDisplay :=
  ⟨("ClearDisplay", 0xFFFF, 0x00E0), by decide, rfl, by decide⟩

theorem EncodesItsRow.ret : Statement .ret :=
  ⟨("Return", 0xFFFF, 0x00EE), by decide, rfl, by decide⟩

theorem EncodesItsRow.jump (addr : Addr) : Statement (.jump addr) :=
  ⟨("Jump", 0xF000, 0x1000), by decide, rfl, rowSelects_encodeA _ _ _⟩

theorem EncodesItsRow.call (addr : Addr) : Statement (.call addr) :=
  ⟨("Call", 0xF000, 0x2000), by decide, rfl, rowSelects_encodeA _ _ _⟩

theorem EncodesItsRow.skipEqVal (x : Reg) (val : Byte) : Statement (.skipEqVal x val) :=
  ⟨("SkipEqVal", 0xF000, 0x3000), by decide, rfl, rowSelects_encodeXN _ _ _ _⟩

theorem EncodesItsRow.skipNotEqVal (x : Reg) (val : Byte) : Statement (.skipNotEqVal x val) :=
  ⟨("SkipNotEqVal", 0xF000, 0x4000), by decide, rfl, rowSelects_encodeXN _ _ _ _⟩

theorem EncodesItsRow.skipEq (x y : Reg) : Statement (.skipEq x y) :=
  ⟨("SkipEq", 0xF00F, 0x5000), by decide, rfl, rowSelects_encodeXY _ _ _ _ _⟩

theorem EncodesItsRow.setVal (x : Reg) (val : Byte) : Statement (.setVal x val) :=
  ⟨("SetVal", 0xF000, 0x6000), by decide, rfl, rowSelects_encodeXN _ _ _ _⟩

theorem EncodesItsRow.addVal (x : Reg) (val : Byte) : Statement (.addVal x val) :=
  ⟨("AddVal", 0xF000, 0x7000), by decide, rfl, rowSelects_encodeXN _ _ _ _⟩

theorem EncodesItsRow.copy (x y : Reg) : Statement (.copy x y) :=
  ⟨("Copy", 0xF00F, 0x8000), by decide, rfl, rowSelects_encodeXY _ _ _ _ _⟩

theorem EncodesItsRow.or (x y : Reg) : Statement (.or x y) :=
  ⟨("Or", 0xF00F, 0x8001), by decide, rfl, rowSelects_encodeXY _ _ _ _ _⟩

theorem EncodesItsRow.and (x y : Reg) : Statement (.and x y) :=
  ⟨("And", 0xF00F, 0x8002), by decide, rfl, rowSelects_encodeXY _ _ _ _ _⟩

theorem EncodesItsRow.xor (x y : Reg) : Statement (.xor x y) :=
  ⟨("Xor", 0xF00F, 0x8003), by decide, rfl, rowSelects_encodeXY _ _ _ _ _⟩

theorem EncodesItsRow.add (x y : Reg) : Statement (.add x y) :=
  ⟨("Add", 0xF00F, 0x8004), by decide, rfl, rowSelects_encodeXY _ _ _ _ _⟩

theorem EncodesItsRow.subtract (x y : Reg) : Statement (.subtract x y) :=
  ⟨("Subtract", 0xF00F, 0x8005), by decide, rfl, rowSelects_encodeXY _ _ _ _ _⟩

theorem EncodesItsRow.shiftRight (x : Reg) : Statement (.shiftRight x) :=
  ⟨("ShiftRight", 0xF00F, 0x8006), by decide, rfl, rowSelects_encodeXY _ _ _ _ _⟩

theorem EncodesItsRow.difference (x y : Reg) : Statement (.difference x y) :=
  ⟨("Difference", 0xF00F, 0x8007), by decide, rfl, rowSelects_encodeXY _ _ _ _ _⟩

theorem EncodesItsRow.shiftLeft (x : Reg) : Statement (.shiftLeft x) :=
  ⟨("ShiftLeft", 0xF00F, 0x800E), by decide, rfl, rowSelects_encodeXY _ _ _ _ _⟩

theorem EncodesItsRow.skipNotEq (x y : Reg) : Statement (.skipNotEq x y) :=
  ⟨("SkipNotEq", 0xF00F, 0x9000), by decide, rfl, rowSelects_encodeXY _ _ _ _ _⟩

theorem EncodesItsRow.setIndex (addr : Addr) : Statement (.setIndex addr) :=
  ⟨("SetIndex", 0xF000, 0xA000), by decide, rfl, rowSelects_encodeA _ _ _⟩

theorem EncodesItsRow.jumpOffset (addr : Addr) : Statement (.jumpOffset addr) :=
  ⟨("JumpOffset", 0xF000, 0xB000), by decide, rfl, rowSelects_encodeA _ _ _⟩

theorem EncodesItsRow.rand (x : Reg) (val : Byte) : Statement (.rand x val) :=
  ⟨("Rand", 0xF000, 0xC000), by decide, rfl, rowSelects_encodeXN _ _ _ _⟩

theorem EncodesItsRow.drawSprite (x y : Reg) (n : Nibble) : Statement (.drawSprite x y n) :=
  ⟨("DrawSprite", 0xF000, 0xD000), by decide, rfl, rowSelects_encodeXYN _ _ _ _ _⟩

theorem EncodesItsRow.skipKeyPressed (x : Reg) : Statement (.skipKeyPressed x) :=
  ⟨("SkipKeyPressed", 0xF0FF, 0xE09E), by decide, rfl, rowSelects_encodeX _ _ _ _⟩

theorem EncodesItsRow.skipKeyNotPressed (x : Reg) : Statement (.skipKeyNotPressed x) :=
  ⟨("SkipKeyNotPressed", 0xF0FF, 0xE0A1), by decide, rfl, rowSelects_encodeX _ _ _ _⟩

theorem EncodesItsRow.getDelayTimer (x : Reg) : Statement (.getDelayTimer x) :=
  ⟨("GetDelayTimer", 0xF0FF, 0xF007), by decide, rfl, rowSelects_encodeX _ _ _ _⟩

theorem EncodesItsRow.getKeyPress (x : Reg) : Statement (.getKeyPress x) :=
  ⟨("GetKeyPress", 0xF0FF, 0xF00A), by decide, rfl, rowSelects_encodeX _ _ _ _⟩

theorem EncodesItsRow.setDelayTimer (x : Reg) : Statement (.setDelayTimer x) :=
  ⟨("SetDelayTimer", 0xF0FF, 0xF015), by decide, rfl, rowSelects_encodeX _ _ _ _⟩

theorem EncodesItsRow.setSoundTimer (x : Reg) : Statement (.setSoundTimer x) :=
  ⟨("SetSoundTimer", 0xF0FF, 0xF018), by decide, rfl, rowSelects_encodeX _ _ _ _⟩

theorem EncodesItsRow.addIndex (x : Reg) : Statement (.addIndex x) :=
  ⟨("AddIndex", 0xF0FF, 0xF01E), by decide, rfl, rowSelects_encodeX _ _ _ _⟩

theorem EncodesItsRow.setIndexCharacter (x : Reg) : Statement (.setIndexCharacter x) :=
  ⟨("SetIndexCharacter", 0xF0FF, 0xF029), by decide, rfl, rowSelects_encodeX _ _ _ _⟩

theorem EncodesItsRow.storeBCD (x : Reg) : Statement (.storeBCD x) :=
  ⟨("StoreBCD", 0xF0FF, 0xF033), by decide, rfl, rowSelects_encodeX _ _ _ _⟩

theorem EncodesItsRow.regDump (x : Reg) : Statement (.regDump x) :=
  ⟨("RegDump", 0xF0FF, 0xF055), by decide, rfl, rowSelects_encodeX _ _ _ _⟩

theorem EncodesItsRow.regLoad (x : Reg) : Statement (.regLoad x) :=
  ⟨("RegLoad", 0xF0FF, 0xF065), by decide, rfl, rowSelects_encodeX _ _ _ _⟩

end Sys2Proof.Laws
end

