-- ==== Sys2Proof/Laws/Step.lean ====
section
/-! SUPPORT. The inversion lemmas: what an execute step, a tick and a step can do when they answer a next state. -/

namespace Sys2Proof.Machine

/-- The word fetched at `pc` is the word the claims call `fetchedWord`. -/
theorem wordAt_pc (s : State) : s.wordAt s.pc = fetchedWord s := by
  unfold fetchedWord
  split
  · exact wordAt_of_gt s ‹_›
  · exact wordAt_of_le s (Nat.le_of_not_gt ‹_›)

/-- A fault in an operation's rule gives the state the claims call `haltedBy`. -/
theorem takeFault_eq_haltedBy (cause : Cause) (info : FaultInfo) (s : State) :
    takeFault (s.pc - 2) cause info s = haltedBy cause info s := by
  have h : s.wordAt (s.pc - 2) = fetchedWord { s with pc := s.pc - 2 } := wordAt_pc { s with pc := s.pc - 2 }
  rw [takeFault, haltedBy, h]

/-- Going back from the advanced `pc` gives the instruction's own address (rules R104, R105). -/
@[simp] theorem advance_pc_sub (s : State) : s.advance.pc - 2 = s.pc := by
  simp [State.advance]

/-- An execute step faults on the fetch, or passes an unrecognized word, or performs the operation it fetched. -/
theorem execute_cases {s t : State} (h : execute s = .next t) :
    (s.pc.toNat > 4094 ∧ t = takeFault s.pc .fetchOutOfRange (.pc s.pc) s) ∨
    ∃ w, s.wordAt s.pc = some w ∧
      ((decode w = .unrecognized ∧ t = s.advance) ∨ ∃ i, decode w = .operation i ∧ exec i s.advance = .next t) := by
  by_cases hp : s.pc.toNat > 4094
  · rw [execute, wordAt_of_gt s hp] at h
    exact .inl ⟨hp, by simpa using h.symm⟩
  · obtain ⟨w, hw⟩ : ∃ w, s.wordAt s.pc = some w := ⟨_, wordAt_of_le s (by omega)⟩
    refine .inr ⟨w, hw, ?_⟩
    rw [execute, hw] at h
    cases hd : decode w with
    | unrecognized =>
      simp only [hd] at h
      exact .inl ⟨rfl, by simpa using h.symm⟩
    | operation i =>
      simp only [hd] at h
      exact .inr ⟨i, rfl, h⟩

/-- A tick does nothing on a halted block, else runs a due instruction and what follows it, or the timer clock alone. -/
theorem tick_cases {now : Nat} {s t : State} (h : tick now s = .next t) :
    (∃ r, s.runState = .halted r ∧ t = s) ∨
    (s.runState = .running ∧ s.nextInstructionDeadline ≤ now ∧
      ∃ u, execute s = .next u ∧ t = afterInstruction now u) ∨
    (s.runState = .running ∧ now < s.nextInstructionDeadline ∧ t = timerClock now s) := by
  unfold tick at h
  cases hr : s.runState with
  | halted r =>
    simp only [hr] at h
    exact .inl ⟨r, rfl, by simpa using h.symm⟩
  | running =>
    simp only [hr] at h
    by_cases hd : s.nextInstructionDeadline ≤ now
    · simp only [hd, if_true] at h
      cases he : execute s with
      | next u =>
        simp only [he] at h
        exact .inr (.inl ⟨rfl, hd, u, rfl, by simpa using h.symm⟩)
      | fault f => simp [he] at h
      | refused r => simp [he] at h
    · simp only [hd, if_false] at h
      exact .inr (.inr ⟨rfl, by omega, by simpa using h.symm⟩)

/-- A move of the host is a tick at a timestamp that does not decrease, a key event, or a reset that fits. -/
theorem hostMove_cases {m : HostMove} {s t : State} (h : hostMove m s = .next t) :
    (∃ now, m = .tick now ∧ s.lastNow ≤ now ∧ tick now { s with lastNow := now } = .next t) ∨
    (∃ k p, m = .keyEvent k p ∧ t = setPressed k p s) ∨
    (∃ image t0, m = .reset image t0 ∧ image.length ≤ 3584 ∧ t = resetWith image t0 s) := by
  cases m with
  | tick now =>
    by_cases hn : now < s.lastNow
    · simp [hostMove, hostTick, hn] at h
    · exact .inl ⟨now, rfl, by omega, by simpa [hostMove, hostTick, hn] using h⟩
  | keyEvent k p => exact .inr (.inl ⟨k, p, rfl, by simpa [hostMove] using h.symm⟩)
  | reset image t0 =>
    by_cases hl : image.length ≤ 3584
    · exact .inr (.inr ⟨image, t0, rfl, hl, by simpa [hostMove, load, imageFits, hl] using h.symm⟩)
    · simp [hostMove, load, imageFits, hl] at h

/-- The state that a host move meets differs from `s` in the list of the coming moves alone. -/
theorem nextMove_state (s : State) : (nextMove s).2 = { s with hostMoves := s.hostMoves.tail } := by
  obtain ⟨_⟩ := s
  rename_i moves _ _ _ _ _
  cases moves <;> rfl

/-- Without a listed move the host ticks when the next instruction is due, never before the latest timestamp. -/
theorem lastNow_le_dueNow (s : State) : s.lastNow ≤ dueNow s := by
  unfold dueNow
  split
  · assumption
  · exact Nat.le_refl _

/-- The instruction is due at the timestamp a host without listed moves passes. -/
theorem deadline_le_dueNow (s : State) : s.nextInstructionDeadline ≤ dueNow s := by
  unfold dueNow
  split <;> omega

end Sys2Proof.Machine
end

