-- ==== Sys2Proof/Machine/Assembler.lean ====
section
/-! DEFINITION. A program of the assembler syntax and the image it stands for (rules R92, R93, R284). Its lines are taken
as read: how a number, a register or a comment is spelled is not modelled (assumption 12). -/

namespace Sys2Proof

/-- The bytes a line takes in the image. -/
def ProgramLine.size : ProgramLine → Nat
  | .operation _ => 2
  | .toLabel _ _ => 2
  | .bytes bs => bs.length
  | .label _ => 0

/-- The address a label names, in lines that start at address `a`. -/
def labelAddress (name : String) : Nat → List ProgramLine → Option Nat
  | _, [] => none
  | a, .label n :: ls => if n = name then some a else labelAddress name a ls
  | a, l :: ls => labelAddress name (a + l.size) ls

/-- The names that the lines declare as labels. -/
def labelNames : List ProgramLine → List String
  | [] => []
  | .label n :: ls => n :: labelNames ls
  | _ :: ls => labelNames ls

/-- The bytes of one line, `none` when it is ill formed. A label stands where an address stands, and nowhere else. -/
def assembleLine (labels : String → Option Nat) : ProgramLine → Option (List Byte)
  | .operation l => (assemble l).map encodeBytes
  | .toLabel mnemonic name =>
    match labels name, operandKinds mnemonic with
    | some a, some [.address] => (assemble ⟨mnemonic, [a]⟩).map encodeBytes
    | _, _ => none
  | .bytes bs => if bs.all (fun b => decide (b < 256)) then some (bs.map (BitVec.ofNat 8)) else none
  | .label _ => some []

/-- The bytes of the lines, one after the other. -/
def assembleLines (labels : String → Option Nat) : List ProgramLine → Option (List Byte)
  | [] => some []
  | l :: ls =>
    match assembleLine labels l, assembleLines labels ls with
    | some bs, some rest => some (bs ++ rest)
    | _, _ => none

/-- The image of a program that starts at the program base, `none` when a line is ill formed or a label is declared
twice. -/
def assembleProgram (ls : List ProgramLine) : Option (List Byte) :=
  if (labelNames ls).Nodup then
    assembleLines (fun name => labelAddress name Config.programBase ls) ls
  else none

end Sys2Proof
end

