-- ==== Sys2Proof/Tests/Slice0.lean ====
section
/-! SUPPORT. Our own tests. The expected results come from the spec: its decoder vectors (95_test_vectors.md section 2),
its worked examples (section 1: S1 ..), its derived vectors (section 3: CF, AL, IM, DS, KT; section 4: SC) and the
examples of the rules. A test of one operation calls `exec` on a state whose `pc` is advanced already (rule R104).
The last part holds the witnesses: for each statement with hypotheses, a state and operands that meet them. -/

namespace Sys2Proof.Tests

open Sys2Proof.Machine

/-! ## Helpers -/

/-- The next state, if there is one. -/
def nextOf : Host.Outcome State Fault Refusal → Option State
  | .next t => some t
  | .fault _ => none
  | .refused _ => none

/-- The reset state inside the instruction at 0x200: `pc` is advanced (rule R104). -/
def inside : State := { State.reset with pc := 0x202 }

/-- Give registers their values. -/
def regs (l : List (Reg × Byte)) (s : State) : State := l.foldl (fun s p => s.setReg p.1 p.2) s

/-- Place bytes in memory. -/
def bytesAt (a : Nat) (bs : List Byte) (s : State) : State := s.setMem (s.mem.writeBytes a bs)

/-- One operation, and a view of the next state. -/
def see {α : Type} (i : Instr) (s : State) (view : State → α) : Option α := (nextOf (exec i s)).map view

/-- The fault of the next state, if it is halted: cause, address, word, information. -/
def record (s : State) : Option FaultRecord :=
  match s.runState with
  | .running => none
  | .halted r => some r

/-! ## Decoding: one word for each constructor (95_test_vectors.md section 2.1) -/

theorem test_decodeClearDisplay : decode 0x00E0 = .operation .clearDisplay := by decide
theorem test_decodeRet : decode 0x00EE = .operation .ret := by decide
theorem test_decodeJump : decode 0x1ABC = .operation (.jump 0xABC) := by decide
theorem test_decodeCall : decode 0x2DEF = .operation (.call 0xDEF) := by decide
theorem test_decodeSkipEqVal : decode 0x3A5C = .operation (.skipEqVal 0xA 0x5C) := by decide
theorem test_decodeSkipNotEqVal : decode 0x4B12 = .operation (.skipNotEqVal 0xB 0x12) := by decide
theorem test_decodeSkipEq : decode 0x5CD0 = .operation (.skipEq 0xC 0xD) := by decide
theorem test_decodeSetVal : decode 0x6E7F = .operation (.setVal 0xE 0x7F) := by decide
theorem test_decodeAddVal : decode 0x7123 = .operation (.addVal 0x1 0x23) := by decide
theorem test_decodeCopy : decode 0x8AB0 = .operation (.copy 0xA 0xB) := by decide
theorem test_decodeOr : decode 0x8AB1 = .operation (.or 0xA 0xB) := by decide
theorem test_decodeAnd : decode 0x8AB2 = .operation (.and 0xA 0xB) := by decide
theorem test_decodeXor : decode 0x8AB3 = .operation (.xor 0xA 0xB) := by decide
theorem test_decodeAdd : decode 0x8AB4 = .operation (.add 0xA 0xB) := by decide
theorem test_decodeSubtract : decode 0x8AB5 = .operation (.subtract 0xA 0xB) := by decide
theorem test_decodeShiftRight : decode 0x8AB6 = .operation (.shiftRight 0xA) := by decide
theorem test_decodeDifference : decode 0x8AB7 = .operation (.difference 0xA 0xB) := by decide
theorem test_decodeShiftLeft : decode 0x8ABE = .operation (.shiftLeft 0xA) := by decide
theorem test_decodeSkipNotEq : decode 0x9340 = .operation (.skipNotEq 0x3 0x4) := by decide
theorem test_decodeSetIndex : decode 0xA123 = .operation (.setIndex 0x123) := by decide
theorem test_decodeJumpOffset : decode 0xB456 = .operation (.jumpOffset 0x456) := by decide
theorem test_decodeRand : decode 0xC7F0 = .operation (.rand 0x7 0xF0) := by decide
theorem test_decodeDrawSprite : decode 0xD12F = .operation (.drawSprite 0x1 0x2 0xF) := by decide
theorem test_decodeSkipKeyPressed : decode 0xE59E = .operation (.skipKeyPressed 0x5) := by decide
theorem test_decodeSkipKeyNotPressed : decode 0xE6A1 = .operation (.skipKeyNotPressed 0x6) := by decide
theorem test_decodeGetDelayTimer : decode 0xF707 = .operation (.getDelayTimer 0x7) := by decide
theorem test_decodeGetKeyPress : decode 0xF80A = .operation (.getKeyPress 0x8) := by decide
theorem test_decodeSetDelayTimer : decode 0xF915 = .operation (.setDelayTimer 0x9) := by decide
theorem test_decodeSetSoundTimer : decode 0xFA18 = .operation (.setSoundTimer 0xA) := by decide
theorem test_decodeAddIndex : decode 0xFB1E = .operation (.addIndex 0xB) := by decide
theorem test_decodeSetIndexCharacter : decode 0xFC29 = .operation (.setIndexCharacter 0xC) := by decide
theorem test_decodeStoreBCD : decode 0xFD33 = .operation (.storeBCD 0xD) := by decide
theorem test_decodeRegDump : decode 0xFE55 = .operation (.regDump 0xE) := by decide
theorem test_decodeRegLoad : decode 0xFF65 = .operation (.regLoad 0xF) := by decide

/-- The boundary words that select no operation (95_test_vectors.md section 2.2). -/
theorem test_decodeUnrecognized :
    [0x0000, 0x0123, 0x00E1, 0x01E0, 0x0FFF, 0x5121, 0x8008, 0x800F, 0x9001, 0xE09F, 0xE0A2, 0xF000, 0xF156, 0xF0FF,
      0xFFFF].map decode = List.replicate 15 .unrecognized := by decide

/-- The boundary words that select one, the shifts with any `y` (95_test_vectors.md section 2.2). -/
theorem test_decodeBoundary :
    [0x1000, 0x5120, 0x8006, 0x80F6].map decode =
      [.operation (.jump 0), .operation (.skipEq 1 2), .operation (.shiftRight 0), .operation (.shiftRight 0)] := by
  decide

/-- The bytes of memory are big-endian (rule R52), and one byte is no instruction. -/
theorem test_decodeBytes :
    decodeBytes [0x12, 0xA4, 0x00] = .decoded (.operation (.jump 0x2A4)) [0x00] ∧ decodeBytes [0x12] = .truncated := by
  decide

/-- A shift is written with `y = 0` (rule R92). -/
theorem test_encodeShift : encode (.shiftLeft 0xA) = 0x8A0E ∧ encodeBytes (.jump 0x2A4) = [0x12, 0xA4] := by decide

theorem test_decodeTableWord :
    decodeTableWord 16 0x8AB5 = some (.subtract 0xA 0xB) ∧ decodeTableWord 16 0x8008 = none := by decide

/-! ## Well-formedness: each check refuses an ill-formed term (rules R73, R92, R285) -/

theorem test_wellFormed : (SourceLine.mk "DrawSprite" [15, 15, 15]).wellFormed = true := by decide
theorem test_unknownName : (SourceLine.mk "HighResolution" []).wellFormed = false := by decide
theorem test_registerOutOfRange : (SourceLine.mk "SetVal" [16, 0]).wellFormed = false := by decide
theorem test_addressOutOfRange : (SourceLine.mk "Jump" [4096]).wellFormed = false := by decide
theorem test_immediateOutOfRange : (SourceLine.mk "Rand" [0, 256]).wellFormed = false := by decide
theorem test_countOutOfRange : (SourceLine.mk "DrawSprite" [0, 0, 16]).wellFormed = false := by decide
theorem test_operandMissing : (SourceLine.mk "Add" [1]).wellFormed = false := by decide
theorem test_operandTooMany : assemble (SourceLine.mk "Return" [1]) = none := by decide
theorem test_assemble : assemble (SourceLine.mk "SkipEqVal" [10, 92]) = some (.skipEqVal 0xA 0x5C) := by decide

/-- 3584 bytes fit and 3585 do not (rule R285). -/
theorem test_imageTooLong :
    imageFits (List.replicate 3584 0) = true ∧ imageFits (List.replicate 3585 0) = false := by
  rw [imageFits, imageFits, List.length_replicate, List.length_replicate]
  decide

/-- P1: labels before and after their use. -/
theorem test_assembleSumLoop :
    assembleProgram
      [.operation ⟨"SetVal", [0, 0]⟩, .operation ⟨"SetVal", [1, 5]⟩, .label "loop", .operation ⟨"Add", [0, 1]⟩,
        .operation ⟨"AddVal", [1, 0xFF]⟩, .operation ⟨"SkipEqVal", [1, 0]⟩, .toLabel "Jump" "loop", .label "done",
        .toLabel "Jump" "done"] =
      some [0x60, 0x00, 0x61, 0x05, 0x80, 0x14, 0x71, 0xFF, 0x31, 0x00, 0x12, 0x04, 0x12, 0x0C] := by decide

/-- The data of P3; an ill-formed byte; a label that is no address operand; one declared twice; one not declared. -/
theorem test_assembleDataAndRefusals :
    assembleProgram [.label "sprite", .bytes [0xC1, 0x80]] = some [0xC1, 0x80] ∧
    assembleProgram [.bytes [256]] = none ∧ assembleProgram [.label "a", .toLabel "StoreBCD" "a"] = none ∧
    assembleProgram [.label "a", .label "a"] = none ∧ assembleProgram [.toLabel "Jump" "a"] = none := by decide

/-! ## Control transfer -/

/-- CF4, and the popped entry stays (rule R32). -/
theorem test_return :
    see .ret { inside with sp := 1, stack := inside.stack.set 0 0x345 } (fun t => (t.pc, t.sp, t.stack[0])) =
      some (0x345, 0, 0x345) := by decide

/-- CF5. -/
theorem test_returnEmpty :
    see .ret (bytesAt 0x200 [0x00, 0xEE] inside) (fun t => (t.pc, record t)) =
      some (0x200, some ⟨.stackUnderflow, 0x200, some 0x00EE, .sp 0⟩) := by decide

/-- CF2: an odd target. -/
theorem test_jump : see (.jump 0x203) inside (fun t => t.pc) = some 0x203 := by decide

/-- CF3. -/
theorem test_call :
    see (.call 0x400) inside (fun t => (t.stack[0], t.sp, t.pc)) = some (0x202, 1, 0x400) := by decide

/-- CF6. -/
theorem test_callFull :
    see (.call 0x400) (bytesAt 0x200 [0x24, 0x00] { inside with sp := 16 }) (fun t => (t.pc, t.sp, record t)) =
      some (0x200, 16, some ⟨.stackOverflow, 0x200, some 0x2400, .sp 16⟩) := by decide

/-- CF9: the sum is not reduced mod 4096. -/
theorem test_jumpOffset : see (.jumpOffset 0xFFF) (regs [(0, 0xFF)] inside) (fun t => t.pc) = some 0x10FE := by decide

/-- CF10 and CF11. -/
theorem test_skipEqVal :
    see (.skipEqVal 1 0x42) (regs [(1, 0x42)] inside) (fun t => t.pc) = some 0x204 ∧
    see (.skipEqVal 1 0x42) (regs [(1, 0x41)] inside) (fun t => t.pc) = some 0x202 := by decide

/-- CF12. -/
theorem test_skipNotEqVal :
    see (.skipNotEqVal 1 0x42) (regs [(1, 0x41)] inside) (fun t => t.pc) = some 0x204 := by decide

/-- CF13. -/
theorem test_skipEq : see (.skipEq 1 2) (regs [(1, 7), (2, 7)] inside) (fun t => t.pc) = some 0x204 := by decide

/-- CF14. -/
theorem test_skipNotEq : see (.skipNotEq 1 2) (regs [(1, 7), (2, 8)] inside) (fun t => t.pc) = some 0x204 := by decide

/-! ## Register operations: `V[x]` and VF after -/

/-- AL1. -/
theorem test_setVal : see (.setVal 10 0x7F) inside (fun t => t.V[10]) = some 0x7F := by decide

/-- AL2: no flag. -/
theorem test_addVal :
    see (.addVal 10 0x02) (regs [(10, 0xFF), (15, 9)] inside) (fun t => (t.V[10], t.V[15])) = some (1, 9) := by decide

/-- AL3. -/
theorem test_copy : see (.copy 1 2) (regs [(2, 0x33)] inside) (fun t => t.V[1]) = some 0x33 := by decide

/-- AL4: VF is unchanged. -/
theorem test_or :
    see (.or 1 2) (regs [(1, 0xF0), (2, 0x0F), (15, 5)] inside) (fun t => (t.V[1], t.V[15])) = some (0xFF, 5) := by
  decide

/-- AL5. -/
theorem test_and : see (.and 1 2) (regs [(1, 0xF0), (2, 0x3C)] inside) (fun t => t.V[1]) = some 0x30 := by decide

/-- AL6. -/
theorem test_xor : see (.xor 1 2) (regs [(1, 0xFF), (2, 0x0F)] inside) (fun t => t.V[1]) = some 0xF0 := by decide

/-- S1. -/
theorem test_add :
    see (.add 1 2) (regs [(1, 250), (2, 10)] inside) (fun t => (t.V[1], t.V[15])) = some (4, 1) := by decide

/-- AL10: the flag is written last. -/
theorem test_addToVF : see (.add 15 1) (regs [(15, 7), (1, 255)] inside) (fun t => t.V[15]) = some 1 := by decide

/-- S2. -/
theorem test_subtract :
    see (.subtract 1 2) (regs [(1, 5), (2, 10)] inside) (fun t => (t.V[1], t.V[15])) = some (251, 0) := by decide

/-- AL12: no borrow when equal. -/
theorem test_subtractEqual :
    see (.subtract 1 2) (regs [(1, 10), (2, 10)] inside) (fun t => (t.V[1], t.V[15])) = some (0, 1) := by decide

/-- AL14 and AL15. -/
theorem test_difference :
    see (.difference 1 2) (regs [(1, 10), (2, 5)] inside) (fun t => (t.V[1], t.V[15])) = some (251, 0) ∧
    see (.difference 1 2) (regs [(1, 5), (2, 10)] inside) (fun t => (t.V[1], t.V[15])) = some (5, 1) := by decide

/-- S3. -/
theorem test_shiftRight :
    see (.shiftRight 1) (regs [(1, 5)] inside) (fun t => (t.V[1], t.V[15])) = some (2, 1) := by decide

/-- AL17: the flag is shifted away. -/
theorem test_shiftRightVF : see (.shiftRight 15) (regs [(15, 3)] inside) (fun t => t.V[15]) = some 0 := by decide

/-- S3b. -/
theorem test_shiftLeft :
    see (.shiftLeft 1) (regs [(1, 0x81)] inside) (fun t => (t.V[1], t.V[15])) = some (2, 1) := by decide

/-- AL18 and AL19. -/
theorem test_shiftLeftVF :
    see (.shiftLeft 15) (regs [(15, 0x80)] inside) (fun t => t.V[15]) = some 2 ∧
    see (.shiftLeft 15) (regs [(15, 0x7F)] inside) (fun t => t.V[15]) = some 0 := by decide

/-- AL20: a draw of 0xAB masked with 0x0F. The draw itself is free. -/
theorem test_randMask : see (.rand 3 0x0F) inside (fun t => t.V[3]) = some (Config.randDraw 0 &&& 0x0F) ∧
    (0xAB &&& 0x0F : Byte) = 0x0B := ⟨rfl, by decide⟩

/-! ## Index register and memory -/

/-- IM1. -/
theorem test_setIndex : see (.setIndex 0x300) inside (fun t => t.I) = some 0x300 := by decide

/-- IM3 and IM4: no mask to 12 bits, and a wrap at 16. -/
theorem test_addIndex :
    see (.addIndex 1) (regs [(1, 1)] { inside with I := 0xFFF }) (fun t => t.I) = some 0x1000 ∧
    see (.addIndex 2) (regs [(2, 2)] { inside with I := 0xFFFF }) (fun t => t.I) = some 1 := by decide

/-- IM5 and IM6. -/
theorem test_setIndexCharacter :
    see (.setIndexCharacter 10) (regs [(10, 10)] inside) (fun t => t.I) = some 0x32 ∧
    see (.setIndexCharacter 1) (regs [(1, 0xFF)] inside) (fun t => t.I) = some 1275 := by decide

/-- IM7. -/
theorem test_storeBCD :
    see (.storeBCD 0) (regs [(0, 156)] { inside with I := 0x300 }) (fun t => (t.mem.readBytes 0x300 4, t.I)) =
      some ([1, 5, 6, 0], 0x300) := by decide

/-- IM10 and IM11: the highest base, and the one past it. -/
theorem test_storeBCDEdge :
    see (.storeBCD 0) (regs [(0, 7)] { inside with I := 4093 }) (fun t => t.mem) = some [(4095, 7)] ∧
    see (.storeBCD 0) (regs [(0, 7)] { inside with I := 4094 }) (fun t => (t.pc, t.mem, record t)) =
      some (0x200, [], some ⟨.memOutOfRange, 0x200, some 0, .access 4094 3⟩) := by decide

/-- S8: the register `x` is included and the next is not. -/
theorem test_regDump :
    see (.regDump 3) (regs [(0, 1), (1, 2), (2, 3), (3, 4), (4, 5)] { inside with I := 0x300 })
      (fun t => (t.mem.readBytes 0x300 5, t.I)) = some ([1, 2, 3, 4, 0], 0x300) := by decide

/-- IM12 and IM13. -/
theorem test_regDumpEdge :
    see (.regDump 15) (regs [(15, 0xEE)] { inside with I := 4080 }) (fun t => t.mem) = some [(4095, 0xEE)] ∧
    see (.regDump 15) (regs [(15, 0xEE)] { inside with I := 4081 }) (fun t => (t.mem, record t)) =
      some ([], some ⟨.memOutOfRange, 0x200, some 0, .access 4081 16⟩) := by decide

/-- IM14. -/
theorem test_regLoad :
    see (.regLoad 2) (regs [(3, 9)] (bytesAt 0x300 [1, 5, 6, 7] { inside with I := 0x300 }))
      (fun t => (t.V[0], t.V[1], t.V[2], t.V[3], t.I)) = some (1, 5, 6, 9, 0x300) := by decide

/-- Writing what an unlisted address reads as removes the cell, so that equal memories are equal lists. -/
theorem test_canonicalMemory :
    (bytesAt 0x300 [0, 0] (bytesAt 0x300 [1, 2] inside)).mem = [] ∧
    (bytesAt 0 [0xF0, 0x91] inside).mem = [(1, 0x91)] := by decide

/-! ## Display -/

/-- DS9. -/
theorem test_clearDisplay :
    see .clearDisplay (regs [(15, 7)] { inside with FB := inside.FB.set 1 2 }) (fun t => (t.FB[1], t.V[15])) =
      some (0, 7) := by decide

/-- S4: columns wrap. Bit `px` of row 0 is the pixel of column `px`. -/
theorem test_drawSpriteWrapsColumns :
    see (.drawSprite 0 1 1) (regs [(0, 63)] (bytesAt 0x300 [0xFF] { inside with I := 0x300 }))
      (fun t => (t.FB[0], t.V[15])) = some (0x800000000000007F, 0) := by decide

/-- S5 on one row, and DS4: the range check comes before the anchor check. -/
theorem test_drawSpriteCollidesAndFaults :
    see (.drawSprite 0 1 1)
      (regs [(0, 63)] (bytesAt 0x300 [0xFF] { inside with I := 0x300, FB := inside.FB.set 0 0x800000000000007F }))
      (fun t => (t.FB[0], t.V[15])) = some (0, 1) ∧
    see (.drawSprite 0 1 15) (regs [(0, 64)] { inside with I := 4082 }) record =
      some (some ⟨.memOutOfRange, 0x200, some 0, .access 4082 15⟩) := by decide

/-- DS1: rows wrap mod 32. -/
theorem test_drawRowsWrap :
    (drawSprite 5 31 [0x80, 0x80] State.reset.FB).1 = (State.reset.FB.set 31 0x20).set 0 0x20 := by decide

/-- DS2: an anchor off the screen draws nothing. -/
theorem test_drawOffScreen : drawSprite 64 0 [0xFF] State.reset.FB = (State.reset.FB, false) := by decide

/-- DS8: glyph 0 of the default font at column 10 and row 3, the anchor read from VF before VF is written. -/
theorem test_drawGlyph :
    see (.drawSprite 15 0 5) (regs [(15, 10), (0, 3)] inside) (fun t => (t.FB[3], t.FB[4], t.FB[7], t.V[15])) =
      some (0x3C00, 0x2400, 0x3C00, 0) := by decide

/-! ## Keys and timers -/

/-- KT1 and KT2. -/
theorem test_skipKeyPressed :
    see (.skipKeyPressed 2) (regs [(2, 5)] { inside with KEY := inside.KEY.set 5 true }) (fun t => t.pc) =
      some 0x204 ∧
    see (.skipKeyPressed 2) (regs [(2, 5)] inside) (fun t => t.pc) = some 0x202 := by decide

/-- KT3 and KT4. -/
theorem test_skipKeyNotPressed :
    see (.skipKeyNotPressed 2) (regs [(2, 5)] inside) (fun t => t.pc) = some 0x204 ∧
    see (.skipKeyNotPressed 2) (regs [(2, 16)] inside) record =
      some (some ⟨.keyOutOfRange, 0x200, some 0, .key 16⟩) := by decide

/-- S7, the first execution. -/
theorem test_getKeyPressArms :
    see (.getKeyPress 3) { inside with kbLastReleased := some 4 } (fun t => (t.pc, t.kbTracking, t.kbLastReleased)) =
      some (0x200, true, none) := by decide

/-- S7, the completion. -/
theorem test_getKeyPressCompletes :
    see (.getKeyPress 3) { inside with kbTracking := true, kbLastReleased := some 7 }
      (fun t => (t.pc, t.V[3], t.kbTracking, t.kbLastReleased)) = some (0x202, 7, false, none) := by decide

/-- KT7: the last release wins; and a press alone records nothing (KT8). -/
theorem test_keyEvents :
    (setPressed 2 false (setPressed 1 false (setPressed 2 true (setPressed 1 true inside.arm)))).kbLastReleased =
      some 2 ∧
    (setPressed 1 true inside.arm).kbLastReleased = none := by decide

/-- KT10. -/
theorem test_getDelayTimer : see (.getDelayTimer 4) { inside with DT := 0x2A } (fun t => t.V[4]) = some 0x2A := by
  decide

/-- KT11. -/
theorem test_setDelayTimer : see (.setDelayTimer 0) (regs [(0, 60)] inside) (fun t => t.DT) = some 60 := by decide

/-- KT12 and KT13. -/
theorem test_setSoundTimer :
    see (.setSoundTimer 1) (regs [(1, 10)] inside) (fun t => (t.ST, soundOut t)) = some (10, true) ∧
    see (.setSoundTimer 1) { inside with ST := 10 } (fun t => (t.ST, soundOut t)) = some (0, false) := by decide

/-! ## The cycle, the clocks, the step -/

/-- CF16: a fetch past address 4094. -/
theorem test_fetchOutOfRange :
    (nextOf (execute { State.reset with pc := 0xFFF })).map (fun t => (t.pc, record t)) =
      some (0xFFF, some ⟨.fetchOutOfRange, 0xFFF, none, .pc 0xFFF⟩) := by decide

/-- SC9: an odd `pc` fetches 0x0161, which only advances. -/
theorem test_oddFetch :
    (nextOf (execute (bytesAt 0x200 [0x12, 0x01, 0x61, 0x12] { State.reset with pc := 0x201 }))).map (fun t => t.pc) =
      some 0x203 := by decide

/-- SC2, its second tick: SetDelayTimer, then the timer step of the same tick. On this grid 3 units are a
microsecond, so that 60 million units are 20 ms. -/
theorem test_bothClocksDue :
    (nextOf (tick 60000000 (regs [(0, 10)] (bytesAt 0x200 [0xF0, 0x15]
      { State.reset with nextInstructionDeadline := 6000000, nextTimerDeadline := 50000000 })))).map
      (fun t => (t.DT, t.nextInstructionDeadline, t.nextTimerDeadline)) =
      some (9, 66000000, 110000000) := by decide

/-- SC6: a fault ends the tick with no timer step. -/
theorem test_faultEndsTheTick :
    (nextOf (tick 0 (bytesAt 0x200 [0x00, 0xEE] { State.reset with DT := 5, ST := 3 }))).map
      (fun t => (t.DT, t.ST, t.nextInstructionDeadline, t.nextTimerDeadline)) = some (5, 3, 0, 0) := by decide

/-- The host's placing of an instruction: the next step runs it. -/
theorem test_withFetchWord :
    (nextOf (step (State.reset.withFetchWord 16 0x6123))).map (fun t => (t.V[1], t.pc)) = some (0x23, 0x202) := by
  decide

/-- A reset of the host loads its image: P6's first word. -/
theorem test_resetMove :
    (nextOf (step { State.reset with hostMoves := [.reset [0x60, 0x12] 7], DT := 9 })).map
      (fun t => (t.mem, t.pc, t.DT, t.nextTimerDeadline)) =
      some ([(512, 0x60), (513, 0x12)], 512, 0, 7) := by decide

/-- Glyph 1 and glyph F of the default font (93_implementation_defined.md G2), and the last byte of memory. -/
theorem test_resetMemory :
    State.reset.mem.readBytes 5 5 = [0x20, 0x60, 0x20, 0x20, 0x70] ∧
    State.reset.mem.readBytes 75 6 = [0xF0, 0x80, 0xF0, 0x80, 0x80, 0] ∧ State.reset.mem.read 4095 = 0 := by decide

/-! ## Witnesses: one for each statement with hypotheses, a clause at its boundary values -/

/-- A shift whose `y` is not 0, the other shift, and a word of another operation. -/
theorem witness_EncodeOfDecodeLosesOnlyTheShiftField :
    (∃ i, decode 0x8AB6 = .operation i ∧ encode i = 0x8A06) ∧
    (∃ i, decode 0x8ABE = .operation i ∧ encode i = 0x8A0E) ∧
    ∃ i, decode 0x8AB5 = .operation i ∧ encode i = 0x8AB5 := ⟨⟨_, rfl, rfl⟩, ⟨_, rfl, rfl⟩, _, rfl, rfl⟩

/-- A row with a word of it, and a word of no row. -/
theorem witness_DecoderIsTheOpcodeTable :
    ("ShiftRight", 0xF00F, 0x8006) ∈ opcodeTable ∧ rowSelects ("ShiftRight", 0xF00F, 0x8006) 0x8AB6 = true ∧
    ∀ row ∈ opcodeTable, rowSelects row 0x5121 = false := by decide

/-- `pc` on both sides of the fetch check, an unrecognized word and an operation at the last address. -/
theorem witness_ExecuteFetchesAdvancesAndPerforms :
    { State.reset with pc := 4095 }.pc.toNat > 4094 ∧ { State.reset with pc := 4094 }.pc.toNat ≤ 4094 ∧
    (0x0000 : Halfword).toNat = (State.reset.mem.read 4094).toNat * 256 + (State.reset.mem.read 4095).toNat ∧
    decode 0x0000 = .unrecognized ∧
    (0x6007 : Halfword).toNat = ((bytesAt 4094 [0x60, 0x07] inside).mem.read 4094).toNat * 256 +
      ((bytesAt 4094 [0x60, 0x07] inside).mem.read 4095).toNat ∧
    decode 0x6007 = .operation (.setVal 0 7) := by decide

/-- A due tick at the very deadline, of an operation that goes on and of one that halts. -/
theorem witness_StepRunsTheDecodedOperation :
    (∃ (s t : State) (now : Nat) (moves : List HostMove) (i : Instr), s.hostMoves = .tick now :: moves ∧ s.lastNow ≤ now ∧ s.runState = .running ∧
      s.nextInstructionDeadline ≤ now ∧ s.pc.toNat ≤ 4094 ∧
      decode (halfwordOfBytes (s.mem.read s.pc.toNat) (s.mem.read (s.pc.toNat + 1))) = .operation i ∧
      exec i { s with pc := s.pc + 2, hostMoves := moves, lastNow := now } = .next t ∧ t.runState = .running) ∧
    ∃ (s t : State) (now : Nat) (moves : List HostMove) (i : Instr), s.hostMoves = .tick now :: moves ∧ s.lastNow ≤ now ∧ s.runState = .running ∧
      s.nextInstructionDeadline ≤ now ∧ s.pc.toNat ≤ 4094 ∧
      decode (halfwordOfBytes (s.mem.read s.pc.toNat) (s.mem.read (s.pc.toNat + 1))) = .operation i ∧
      exec i { s with pc := s.pc + 2, hostMoves := moves, lastNow := now } = .next t ∧ t.runState ≠ .running :=
  ⟨⟨{ bytesAt 4094 [0x61, 0x23] State.reset with pc := 4094, hostMoves := [.tick 0] }, _, 0, [], .setVal 1 0x23,
      rfl, by decide, rfl, by decide, by decide, by decide, rfl, rfl⟩,
    { bytesAt 0x200 [0x00, 0xEE] State.reset with hostMoves := [.tick 0] }, _, 0, [], .ret,
      rfl, by decide, rfl, by decide, by decide, by decide, rfl, by decide⟩

theorem witness_StepWithNoListedMoveTicksWhenDue : State.reset.hostMoves = [] := rfl

/-- A halted block; a tick one unit before the deadline; a tick at it that goes on; a tick at it that halts. -/
theorem witness_TickFollowsTheTwoClocks :
    (∃ r, { State.reset with runState := .halted ⟨.stackUnderflow, 0x200, some 0x00EE, .sp 0⟩ }.runState = .halted r) ∧
    (State.reset.runState = .running ∧ 5 < { State.reset with nextInstructionDeadline := 6 }.nextInstructionDeadline) ∧
    (∃ t, 0 ≥ State.reset.nextInstructionDeadline ∧ execute State.reset = .next t ∧ t.runState = .running) ∧
    ∃ t r, execute (bytesAt 0x200 [0x00, 0xEE] State.reset) = .next t ∧ t.runState = .halted r :=
  ⟨⟨_, rfl⟩, ⟨rfl, by decide⟩, ⟨_, by decide, rfl, rfl⟩, _, _, rfl, rfl⟩

/-- Two ticks with a key event between them. -/
theorem witness_StrobeViewAdmitsEveryTimedRun :
    ∃ t, timedRun [.inl 0, .inr (5, true), .inl 6000000] State.reset = .next t := ⟨_, rfl⟩

theorem witness_FaultsArePrecise :
    ∃ t r, (bytesAt 0x200 [0x00, 0xEE] State.reset).runState = .running ∧
      execute (bytesAt 0x200 [0x00, 0xEE] State.reset) = .next t ∧ t.runState = .halted r := ⟨_, _, rfl, rfl, rfl⟩

/-- No fault, and each fault at the boundary of its condition. -/
theorem witness_FaultsAreExactlyTheTable :
    State.reset.runState = .running ∧ executeFault State.reset = none ∧
    executeFault { State.reset with pc := 4095 } = some (.fetchOutOfRange, .pc 4095) ∧
    executeFault (bytesAt 0x200 [0x24, 0x00] { State.reset with sp := 15 }) = none ∧
    executeFault (bytesAt 0x200 [0x24, 0x00] { State.reset with sp := 16 }) = some (.stackOverflow, .sp 16) ∧
    executeFault (bytesAt 0x200 [0x00, 0xEE] State.reset) = some (.stackUnderflow, .sp 0) ∧
    executeFault (bytesAt 0x200 [0xF0, 0x33] { State.reset with I := 4093 }) = none ∧
    executeFault (bytesAt 0x200 [0xF0, 0x33] { State.reset with I := 4094 }) = some (.memOutOfRange, .access 4094 3) ∧
    executeFault (bytesAt 0x200 [0xE0, 0x9E] (regs [(0, 15)] State.reset)) = none ∧
    executeFault (bytesAt 0x200 [0xE0, 0x9E] (regs [(0, 16)] State.reset)) = some (.keyOutOfRange, .key 16) := by
  decide

/-- A halted block that meets a tick, one that meets a key event, and a reset that fits. -/
theorem witness_OnlyResetLeavesHalted :
    (∃ s t r, s.runState = .halted r ∧ (∀ image t0, (nextMove s).1 ≠ .reset image t0) ∧ s.hostMoves = [.tick 4] ∧
      step s = .next t) ∧
    (∃ s t r, s.runState = .halted r ∧ (∀ image t0, (nextMove s).1 ≠ .reset image t0) ∧
      s.hostMoves = [.keyEvent 5 true] ∧ step s = .next t) ∧
    ∃ (s : State) (moves : List HostMove), s.hostMoves = .reset [0x12, 0x00] 9 :: moves ∧
      [(0x12 : Byte), 0x00].length ≤ 3584 :=
  ⟨⟨{ State.reset with runState := .halted ⟨.stackUnderflow, 0x200, some 0x00EE, .sp 0⟩, hostMoves := [.tick 4] },
      _, _, rfl, (fun _ _ h => nomatch h), rfl, rfl⟩,
    ⟨{ State.reset with
        runState := .halted ⟨.stackUnderflow, 0x200, some 0x00EE, .sp 0⟩, hostMoves := [.keyEvent 5 true] },
      _, _, rfl, (fun _ _ h => nomatch h), rfl, rfl⟩,
    { State.reset with hostMoves := [.reset [0x12, 0x00] 9] }, [], rfl, by decide⟩

/-- The longest image and one byte more; the addresses of each clause. -/
theorem witness_ResetSetsTheWholeState :
    (∃ image : List Byte, image.length = 3584) ∧ (∃ image : List Byte, image.length = 3585) ∧
    79 < 80 ∧ 1 < [(0x12 : Byte), 0x00].length ∧ (80 ≤ 80 ∧ 80 < 512) ∧ (80 ≤ 514 ∧ 512 + 2 ≤ 514) :=
  ⟨⟨List.replicate 3584 0, List.length_replicate⟩, ⟨List.replicate 3585 0, List.length_replicate⟩, by decide⟩

/-- A reset with the longest image, and one with a byte more. -/
theorem witness_AResetMoveAnswersTheLoad :
    (∃ (image : List Byte) (moves : List HostMove) (s : State),
      s.hostMoves = .reset image 9 :: moves ∧ image.length ≤ 3584) ∧
    ∃ (image : List Byte) (moves : List HostMove) (s : State),
      s.hostMoves = .reset image 9 :: moves ∧ image.length > 3584 :=
  ⟨⟨List.replicate 3584 0, [.tick 9], { State.reset with hostMoves := [.reset (List.replicate 3584 0) 9, .tick 9] },
      rfl, Nat.le_of_eq List.length_replicate⟩,
    List.replicate 3585 0, [.tick 9], { State.reset with hostMoves := [.reset (List.replicate 3585 0) 9, .tick 9] },
    rfl, Nat.le_of_eq List.length_replicate.symm⟩

theorem witness_KeyEventRecordsAReleaseWhileArmed :
    (4 : Key) ≠ 5 ∧ inside.arm.kbTracking = true ∧ (setPressed 5 true inside.arm).KEY[(5 : Key)] = true := by decide

/-- The last pixel, and the silent and the sounding state. -/
theorem witness_PortsReadThePixelAndTheSound : 63 + 64 * 31 < 2048 ∧ 63 < 64 ∧
    inside.ST = 0 ∧ { inside with ST := 1 }.ST ≠ 0 := by decide

/-- A step in which the delay timer rises from 0 to 60: the timer clock is not due. -/
theorem witness_DelayTimerRisesOnlyBySetDelayTimer :
    ∃ s t, s.DT = 0 ∧ step s = .next t ∧ t.DT = 60 :=
  ⟨{ regs [(0, 60)] (bytesAt 0x200 [0xF0, 0x15] State.reset) with nextTimerDeadline := 1 }, _, rfl, rfl, by decide⟩

/-- Each of the three operations, in a tick at both deadlines. -/
theorem witness_ATimerSetInADueTickIsCountedDownAtOnce :
    State.reset.runState = .running ∧ State.reset.nextInstructionDeadline ≤ 0 ∧ State.reset.nextTimerDeadline ≤ 0 ∧
    State.reset.pc.toNat ≤ 4094 ∧
    decode (halfwordOfBytes ((bytesAt 0x200 [0xF0, 0x15] State.reset).mem.read 0x200)
      ((bytesAt 0x200 [0xF0, 0x15] State.reset).mem.read 0x201)) = .operation (.setDelayTimer 0) ∧
    decode (halfwordOfBytes ((bytesAt 0x200 [0xF0, 0x18] State.reset).mem.read 0x200)
      ((bytesAt 0x200 [0xF0, 0x18] State.reset).mem.read 0x201)) = .operation (.setSoundTimer 0) ∧
    decode (halfwordOfBytes ((bytesAt 0x200 [0xF0, 0x07] State.reset).mem.read 0x200)
      ((bytesAt 0x200 [0xF0, 0x07] State.reset).mem.read 0x201)) = .operation (.getDelayTimer 0) := by decide

/-- The stack with one entry and the empty one. -/
theorem witness_ReturnPopsThePc :
    { inside with sp := 1 }.sp ≠ 0 ∧ (0 : Fin 16).val + 1 = { inside with sp := 1 }.sp.val ∧ inside.sp = 0 := by decide

/-- The stack with one place left and the full one. -/
theorem witness_CallPushesTheAdvancedPc :
    { inside with sp := 15 }.sp ≠ 16 ∧ { inside with sp := 16 }.sp = 16 := by decide

/-- SkipsAddTwoOnTheirCondition: a low nibble that selects no operation. -/
theorem witness_SkipsAddTwoOnTheirCondition : (1 : Nibble) ≠ 0 := by decide

/-- A register that is no destination: SetAddAndCopyWriteOneRegister, LogicOperationsWriteOneRegister,
AddWritesTheSumThenTheCarry, SubtractWritesTheDifferenceThenNoBorrow, DifferenceWritesTheReverseDifference,
RandMasksAFreshDraw, TimerOperationsMoveTheTimers. -/
theorem witness_otherRegisters : (3 : Reg) ≠ 2 ∧ (3 : Reg) ≠ 15 ∧ (2 : Reg) ≠ 15 := by decide

/-- ShiftRightFlagsTheBitShiftedOut and ShiftLeftFlagsTheBitShiftedOut: a destination beside VF, and VF itself. -/
theorem witness_shifts : (14 : Reg) ≠ 15 ∧ (15 : Reg) = 15 := by decide

/-- The highest base that fits, the next one, and the addresses outside the bytes stored. -/
theorem witness_StoreBCDStoresThreeDigits :
    { inside with I := 4093 }.mem.wf = true ∧ { inside with I := 4093 }.I.toNat + 3 ≤ 4096 ∧
    { inside with I := 4094 }.I.toNat + 3 > 4096 ∧ 4092 < { inside with I := 4093 }.I.toNat ∧
    { inside with I := 4092 }.I.toNat + 3 ≤ 4095 := by decide

theorem witness_RegDumpStoresTheFirstRegisters :
    { inside with I := 4080 }.mem.wf = true ∧ { inside with I := 4080 }.I.toNat + ((15 : Reg).val + 1) ≤ 4096 ∧
    { inside with I := 4081 }.I.toNat + ((15 : Reg).val + 1) > 4096 ∧ (15 : Reg) ≤ 15 ∧
    4079 < { inside with I := 4080 }.I.toNat ∧ { inside with I := 4079 }.I.toNat + ((15 : Reg).val + 1) ≤ 4095 := by
  decide

theorem witness_RegLoadLoadsTheFirstRegisters :
    { inside with I := 4080 }.I.toNat + ((15 : Reg).val + 1) ≤ 4096 ∧
    { inside with I := 4081 }.I.toNat + ((15 : Reg).val + 1) > 4096 := by decide

/-- The last anchor on the screen, and an anchor off it on each axis. -/
theorem witness_DrawingIsXorWithTheCoveredPixels :
    (List.replicate 15 (0xFF : Byte)).length ≤ 15 ∧ ((63 : Byte).toNat < 64 ∧ (31 : Byte).toNat < 32) ∧
    (64 : Byte).toNat ≥ 64 ∧ (32 : Byte).toNat ≥ 32 := by decide

theorem witness_DrawingTwiceRestoresTheFramebuffer :
    (List.replicate 15 (0xFF : Byte)).length ≤ 15 ∧ (63 : Byte).toNat < 64 ∧ (31 : Byte).toNat < 32 := by decide

/-- The highest base that fits 15 rows, the next one, and anchors on and off the screen. -/
theorem witness_DrawSpriteXorsAndReportsCollision :
    { inside with I := 4081 }.I.toNat + (15 : Nibble).toNat ≤ 4096 ∧
    { inside with I := 4082 }.I.toNat + (15 : Nibble).toNat > 4096 ∧
    ((regs [(0, 63), (1, 31)] inside).V[(0 : Reg)].toNat < 64 ∧
      (regs [(0, 63), (1, 31)] inside).V[(1 : Reg)].toNat < 32) ∧
    (regs [(0, 64)] inside).V[(0 : Reg)].toNat ≥ 64 ∧ (regs [(1, 32)] inside).V[(1 : Reg)].toNat ≥ 32 := by decide

/-- The last key and the identifier after it. -/
theorem witness_KeySkipsTestTheKeyLevel :
    (regs [(2, 15)] inside).V[(2 : Reg)].toNat = (15 : Key).val ∧ (regs [(2, 16)] inside).V[(2 : Reg)].toNat ≥ 16 := by
  decide

/-- Not armed; armed without a release; armed with one. -/
theorem witness_GetKeyPressArmsRepeatsAndCompletes :
    inside.kbTracking = false ∧ (inside.arm.kbTracking = true ∧ inside.arm.kbLastReleased = none) ∧
    (inside.setTracker true (some 15)).kbTracking = true ∧
    (inside.setTracker true (some 15)).kbLastReleased = some 15 := by decide

theorem witness_GetKeyPressReturnsTheKeyReleasedAfterArming :
    (bytesAt 4094 [0xF3, 0x0A] { State.reset with pc := 4094 }).kbTracking = false ∧
    (bytesAt 4094 [0xF3, 0x0A] { State.reset with pc := 4094 }).pc.toNat ≤ 4094 ∧
    decode (halfwordOfBytes ((bytesAt 4094 [0xF3, 0x0A] State.reset).mem.read 4094)
      ((bytesAt 4094 [0xF3, 0x0A] State.reset).mem.read 4095)) = .operation (.getKeyPress 3) := by decide

/-- Operations that complete, a register each does not write, and for each clause an operation it speaks of. -/
theorem witness_OperationsWriteOnlyTheirRegisters :
    (∃ t, exec (.add 1 2) inside = .next t ∧ writesReg (.add 1 2) 2 = false) ∧
    ∃ t, exec (.regLoad 14) inside = .next t ∧ writesReg (.regLoad 14) 15 = false :=
  ⟨⟨_, rfl, by decide⟩, _, rfl, by decide⟩

/-- Jump is none of the operations that a clause leaves out, so that it meets the premise of each. -/
theorem witness_OperationsWriteOnlyTheirElements :
    (∃ t, exec (.jump 0x203) inside = .next t) ∧
    (∀ x, Instr.jump 0x203 ≠ .storeBCD x ∧ Instr.jump 0x203 ≠ .regDump x) ∧
    Instr.jump 0x203 ≠ .clearDisplay ∧ (∀ x y n, Instr.jump 0x203 ≠ .drawSprite x y n) ∧
    (∀ x addr, Instr.jump 0x203 ≠ .setIndex addr ∧ Instr.jump 0x203 ≠ .addIndex x ∧
      Instr.jump 0x203 ≠ .setIndexCharacter x) ∧
    (∀ addr, Instr.jump 0x203 ≠ .call addr) ∧ Instr.jump 0x203 ≠ .ret ∧
    (∀ x, Instr.jump 0x203 ≠ .setDelayTimer x) ∧ (∀ x, Instr.jump 0x203 ≠ .setSoundTimer x) ∧
    (∀ x, Instr.jump 0x203 ≠ .getKeyPress x) ∧ ∀ x val, Instr.jump 0x203 ≠ .rand x val := by
  refine ⟨⟨_, rfl⟩, ?_⟩
  simp

theorem witness_NoOperationReadsTheSoundTimer :
    ∃ t, exec (.setSoundTimer 1) { inside with ST := 3 } = .next t := ⟨_, rfl⟩

/-- StepKeepsTheBlockInvariants, StepKeepsTheMemoryCanonical and StepKeepsThePcBounds: a state that meets them with the
tracker armed, the stack full and `pc` at its bound, and its step. -/
theorem witness_invariants :
    ∃ t, (BlockInv { State.reset with sp := 16, kbTracking := true, kbLastReleased := some 15, pc := 0x10FE } ∧
      PcInv { State.reset with sp := 16, kbTracking := true, kbLastReleased := some 15, pc := 0x10FE } ∧
      State.reset.mem.wf = true) ∧
      step { State.reset with sp := 16, kbTracking := true, kbLastReleased := some 15, pc := 0x10FE } = .next t :=
  ⟨_, by decide, rfl⟩

end Sys2Proof.Tests
end

/-! PROOFS. The state of the block (10_state.md): what an operation can do, the elements it leaves, and the invariants of
a step. -/

namespace Sys2Proof.Machine

/-! ## What an operation can do -/

/-- What the operation `i` can do to the state `s`, by the kind of its effect: the state it answers is `s` with these
updates (rules R22 to R36). `exec_next` ties it to `exec`. -/
inductive Effect (s : State) : Instr → State → Prop
  /-- A fault of the operation (rule R105). -/
  | fault (i : Instr) (cause : Cause) (info : FaultInfo) : Effect s i (takeFault (s.pc - 2) cause info s)
  /-- General registers alone, and of them those that the register table lists (rule R23). -/
  | registers (i : Instr) (V : Vector Byte 16) (hV : ∀ r : Reg, writesReg i r = false → V[r] = s.V[r]) :
      Effect s i (s.setRegs V)
  /-- `pc` alone: a jump, or a skip that is taken or not (rules R108, R121, R123). -/
  | goto (i : Instr) (a : Halfword) (ha : a = s.pc ∨ a = s.pc + 2 ∨ a.toNat ≤ 0x10FE) : Effect s i (s.setPc a)
  | call (addr : Addr) (hsp : s.sp.val < 16) : Effect s (.call addr) ((s.push s.pc).setPc (addressOperand addr))
  | ret : Effect s .ret (s.dropTop.setPc s.topOfStack)
  | rand (x : Reg) (val b : Byte) : Effect s (.rand x val) (s.countDraw.setReg x b)
  | clearDisplay : Effect s .clearDisplay (s.setFrame clearFrame)
  | drawSprite (x y : Reg) (n : Nibble) : Effect s (.drawSprite x y n) (drawAtIndex x y n.toNat s)
  | setIndex (addr : Addr) : Effect s (.setIndex addr) (s.setIndex (addressOperand addr))
  | addIndex (x : Reg) : Effect s (.addIndex x) (s.setIndex (indexPlus s.I (s.reg x)))
  | setIndexCharacter (x : Reg) : Effect s (.setIndexCharacter x) (s.setIndex (glyphAddress (s.reg x)))
  | storeBCD (x : Reg) : Effect s (.storeBCD x) (storeDigits x s)
  | regDump (x : Reg) : Effect s (.regDump x) (dumpFirst x s)
  | setDelayTimer (x : Reg) : Effect s (.setDelayTimer x) (s.setDelay (s.reg x))
  | setSoundTimer (x : Reg) : Effect s (.setSoundTimer x) (s.setSound (s.reg x))
  /-- The three outcomes of rule R216. -/
  | keyArms (x : Reg) : Effect s (.getKeyPress x) s.arm.repeatInstruction
  | keyRepeats (x : Reg) : Effect s (.getKeyPress x) s.repeatInstruction
  | keyCompletes (x : Reg) (b : Byte) : Effect s (.getKeyPress x) (s.disarm.setReg x b)

/-- A write to a listed register leaves the registers that are not listed. -/
theorem setReg_keeps_unlisted {i : Instr} {x : Reg} (hx : writesReg i x = true) (s : State) (b : Byte) (r : Reg)
    (hr : writesReg i r = false) : (s.setReg x b).V[r] = s.V[r] := by
  have hne : r ≠ x := by
    rintro rfl
    simp [hx] at hr
  rw [setReg_V_get, if_neg hne]

theorem Effect.setReg {i : Instr} {x : Reg} (s : State) (b : Byte)
    (hx : writesReg i x = true := by simp [writesReg]) :
    Effect s i (s.setReg x b) :=
  .registers i _ (setReg_keeps_unlisted hx s b)

theorem Effect.setReg_setReg {i : Instr} {x y : Reg} (s : State) (b c : Byte)
    (hx : writesReg i x = true := by simp [writesReg]) (hy : writesReg i y = true := by simp [writesReg]) :
    Effect s i ((s.setReg x b).setReg y c) :=
  .registers i _ fun r hr =>
    (setReg_keeps_unlisted hy (s.setReg x b) c r hr).trans (setReg_keeps_unlisted hx s b r hr)

theorem Effect.skipIf (i : Instr) (s : State) (c : Bool) : Effect s i (s.skipIf c) := by
  cases c with
  | false => exact .goto i s.pc (.inl rfl)
  | true => exact .goto i (s.pc + 2) (.inr (.inl rfl))

theorem Effect.keySkip (i : Instr) (s : State) (x : Reg) (c : Bool) :
    Effect s i (if s.V[x].toNat ≥ 16 then takeFault (s.pc - 2) .keyOutOfRange (.key s.V[x]) s else s.skipIf c) :=
  iteInduction (fun _ => .fault i _ _) fun _ => .skipIf i s c

/-- A load of the first registers leaves the registers after them (rule R175). -/
theorem Effect.regLoad (x : Reg) (s : State) : Effect s (.regLoad x) (loadFirst x s) := by
  refine .registers _ _ fun r hr => ?_
  have hlt : ¬ r.val < regCount x := Nat.not_lt_of_le (not_le.mp (of_decide_eq_false hr) : x < r)
  rw [get_loadRegs, if_neg hlt]

theorem Effect.getKeyPress (x : Reg) (s : State) :
    Effect s (.getKeyPress x)
      (if s.kbTracking then
         match s.kbLastReleased with
         | some k => s.disarm.setReg x (BitVec.ofNat 8 k.val)
         | none => s.repeatInstruction
       else s.arm.repeatInstruction) := by
  split
  · split
    · exact .keyCompletes x _
    · exact .keyRepeats x
  · exact .keyArms x

/-- Every operation answers a next state, by one of the effects. -/
theorem exec_next (i : Instr) (s : State) : ∃ t, exec i s = .next t ∧ Effect s i t := by
  cases i with
  | clearDisplay => exact ⟨_, rfl, .clearDisplay⟩
  | ret => exact ⟨_, exec_ret_next s, iteInduction (fun _ => .fault _ _ _) fun _ => .ret⟩
  | jump addr =>
    have ha : (addressOperand addr).toNat ≤ 0x10FE := by
      rw [addressOperand_toNat]
      omega
    exact ⟨_, rfl, .goto _ _ (.inr (.inr ha))⟩
  | call addr =>
    exact ⟨_, exec_call_next addr s, iteInduction (fun _ => .fault _ _ _) fun h => .call addr (by omega)⟩
  | skipEqVal x val => exact ⟨_, rfl, .skipIf _ _ _⟩
  | skipNotEqVal x val => exact ⟨_, rfl, .skipIf _ _ _⟩
  | skipEq x y => exact ⟨_, rfl, .skipIf _ _ _⟩
  | setVal x val => exact ⟨_, rfl, .setReg s _⟩
  | addVal x val => exact ⟨_, rfl, .setReg s _⟩
  | copy x y => exact ⟨_, rfl, .setReg s _⟩
  | or x y => exact ⟨_, rfl, .setReg s _⟩
  | and x y => exact ⟨_, rfl, .setReg s _⟩
  | xor x y => exact ⟨_, rfl, .setReg s _⟩
  | add x y => exact ⟨_, rfl, .setReg_setReg s _ _⟩
  | subtract x y => exact ⟨_, rfl, .setReg_setReg s _ _⟩
  | shiftRight x => exact ⟨_, rfl, .setReg_setReg s _ _⟩
  | difference x y => exact ⟨_, rfl, .setReg_setReg s _ _⟩
  | shiftLeft x => exact ⟨_, rfl, .setReg_setReg s _ _⟩
  | skipNotEq x y => exact ⟨_, rfl, .skipIf _ _ _⟩
  | setIndex addr => exact ⟨_, rfl, .setIndex addr⟩
  | jumpOffset addr =>
    have ha : (offsetAddress addr (s.reg 0)).toNat ≤ 0x10FE := by
      rw [offsetAddress_toNat]
      omega
    exact ⟨_, rfl, .goto _ _ (.inr (.inr ha))⟩
  | rand x val => exact ⟨_, rfl, .rand x val _⟩
  | drawSprite x y n =>
    exact ⟨_, exec_drawSprite_next x y n s, iteInduction (fun _ => .drawSprite x y n) fun _ => .fault _ _ _⟩
  | skipKeyPressed x => exact ⟨_, exec_skipKeyPressed_next x s, .keySkip _ s x _⟩
  | skipKeyNotPressed x => exact ⟨_, exec_skipKeyNotPressed_next x s, .keySkip _ s x _⟩
  | getDelayTimer x => exact ⟨_, rfl, .setReg s _⟩
  | getKeyPress x => exact ⟨_, exec_getKeyPress_next x s, .getKeyPress x s⟩
  | setDelayTimer x => exact ⟨_, rfl, .setDelayTimer x⟩
  | setSoundTimer x => exact ⟨_, rfl, .setSoundTimer x⟩
  | addIndex x => exact ⟨_, rfl, .addIndex x⟩
  | setIndexCharacter x => exact ⟨_, rfl, .setIndexCharacter x⟩
  | storeBCD x => exact ⟨_, exec_storeBCD_next x s, iteInduction (fun _ => .storeBCD x) fun _ => .fault _ _ _⟩
  | regDump x => exact ⟨_, exec_regDump_next x s, iteInduction (fun _ => .regDump x) fun _ => .fault _ _ _⟩
  | regLoad x => exact ⟨_, exec_regLoad_next x s, iteInduction (fun _ => .regLoad x s) fun _ => .fault _ _ _⟩

/-- The inversion of `exec`: the state it answers is one of the effects of the operation. -/
theorem exec_effect {i : Instr} {s t : State} (h : exec i s = .next t) : Effect s i t := by
  obtain ⟨u, hu, e⟩ := exec_next i s
  obtain rfl : u = t := Host.Outcome.next.inj (hu.symm.trans h)
  exact e

/-! ## The elements an operation leaves -/

section

variable {i : Instr} {s t : State}

theorem Effect.V_get_eq (h : Effect s i t) {r : Reg} (hr : writesReg i r = false) : t.V[r] = s.V[r] := by
  cases h with
  | registers _ V hV => exact hV r hr
  | rand x val b => exact setReg_keeps_unlisted (by simp [writesReg]) s.countDraw b r hr
  | drawSprite x y n => exact setReg_keeps_unlisted (by simp [writesReg]) (s.setFrame _) _ r hr
  | keyCompletes x b => exact setReg_keeps_unlisted (by simp [writesReg]) s.disarm b r hr
  | _ => rfl

theorem Effect.mem_eq (h : Effect s i t) (hi : ∀ x, i ≠ .storeBCD x ∧ i ≠ .regDump x) : t.mem = s.mem := by
  cases h with
  | storeBCD x => exact absurd rfl (hi x).1
  | regDump x => exact absurd rfl (hi x).2
  | _ => rfl

theorem Effect.FB_eq (h : Effect s i t) (hc : i ≠ .clearDisplay) (hd : ∀ x y n, i ≠ .drawSprite x y n) :
    t.FB = s.FB := by
  cases h with
  | clearDisplay => exact absurd rfl hc
  | drawSprite x y n => exact absurd rfl (hd x y n)
  | _ => rfl

theorem Effect.I_eq (h : Effect s i t)
    (hi : ∀ x addr, i ≠ .setIndex addr ∧ i ≠ .addIndex x ∧ i ≠ .setIndexCharacter x) : t.I = s.I := by
  cases h with
  | setIndex addr => exact absurd rfl (hi 0 addr).1
  | addIndex x => exact absurd rfl (hi x 0).2.1
  | setIndexCharacter x => exact absurd rfl (hi x 0).2.2
  | _ => rfl

theorem Effect.stack_eq (h : Effect s i t) (hi : ∀ addr, i ≠ .call addr) : t.stack = s.stack := by
  cases h with
  | call addr => exact absurd rfl (hi addr)
  | _ => rfl

theorem Effect.sp_eq (h : Effect s i t) (hc : ∀ addr, i ≠ .call addr) (hr : i ≠ .ret) : t.sp = s.sp := by
  cases h with
  | call addr => exact absurd rfl (hc addr)
  | ret => exact absurd rfl hr
  | _ => rfl

theorem Effect.DT_eq (h : Effect s i t) (hi : ∀ x, i ≠ .setDelayTimer x) : t.DT = s.DT := by
  cases h with
  | setDelayTimer x => exact absurd rfl (hi x)
  | _ => rfl

theorem Effect.ST_eq (h : Effect s i t) (hi : ∀ x, i ≠ .setSoundTimer x) : t.ST = s.ST := by
  cases h with
  | setSoundTimer x => exact absurd rfl (hi x)
  | _ => rfl

theorem Effect.tracker_eq (h : Effect s i t) (hi : ∀ x, i ≠ .getKeyPress x) :
    t.kbTracking = s.kbTracking ∧ t.kbLastReleased = s.kbLastReleased := by
  cases h with
  | keyArms x => exact absurd rfl (hi x)
  | keyCompletes x => exact absurd rfl (hi x)
  | _ => exact ⟨rfl, rfl⟩

theorem Effect.draws_eq (h : Effect s i t) (hi : ∀ x val, i ≠ .rand x val) : t.draws = s.draws := by
  cases h with
  | rand x val b => exact absurd rfl (hi x val)
  | _ => rfl

/-- No operation writes the key levels, the deadlines, the parameters or the record of the host. -/
theorem Effect.host_eq (h : Effect s i t) :
    t.KEY = s.KEY ∧ t.nextInstructionDeadline = s.nextInstructionDeadline ∧
    t.nextTimerDeadline = s.nextTimerDeadline ∧ t.hostMoves = s.hostMoves ∧ t.lastNow = s.lastNow ∧
    t.unitsPerMs = s.unitsPerMs ∧ t.timerPeriod = s.timerPeriod ∧ t.glyphs = s.glyphs := by
  cases h with
  | _ => exact ⟨rfl, rfl, rfl, rfl, rfl, rfl, rfl, rfl⟩

end

/-- Settles O45: a register that no effect of the operation lists is left. -/
theorem operationsWriteOnlyTheirRegisters : Obligations.OperationsWriteOnlyTheirRegisters :=
  fun _ _ _ h _ hr => (exec_effect h).V_get_eq hr

/-- Settles O46, element by element over the effects. -/
theorem operationsWriteOnlyTheirElements : Obligations.OperationsWriteOnlyTheirElements := by
  intro i s t h
  have e := exec_effect h
  exact ⟨fun hi a => by rw [e.mem_eq hi], e.FB_eq, e.I_eq, fun hc => ⟨e.stack_eq hc, e.sp_eq hc⟩,
    e.DT_eq, e.ST_eq, e.tracker_eq, e.draws_eq, e.host_eq⟩

/-! ## The sound timer -/

section

variable {s t : State} (b : Byte)

theorem skipIf_setSound (s : State) (c : Bool) : (s.setSound b).skipIf c = (s.skipIf c).setSound b := by
  cases c with
  | false => rfl
  | true => rfl

theorem next_skipIf_setSound {c : Bool} {o o' : Host.Outcome State Fault Refusal} (h : o = .next t)
    (ho : o = .next (s.skipIf c)) (ho' : o' = .next ((s.setSound b).skipIf c)) :
    o' = .next (t.setSound b) := by
  obtain rfl : t = s.skipIf c := Host.Outcome.next.inj (h.symm.trans ho)
  rw [ho', skipIf_setSound]

/-- Two outcomes that choose by the same condition between states that differ in the sound timer alone. -/
theorem next_setSound_of_ite {o o' : Host.Outcome State Fault Refusal} {c : Prop} [Decidable c] {u v u' v' : State}
    (h : o = .next t) (ho : o = .next (if c then u else v)) (ho' : o' = .next (if c then u' else v'))
    (hu : u' = u.setSound b) (hv : v' = v.setSound b) : o' = .next (t.setSound b) := by
  obtain rfl : t = if c then u else v := Host.Outcome.next.inj (h.symm.trans ho)
  rw [ho', hu, hv, apply_ite (State.setSound · b)]

/-- An operation other than SetSoundTimer does the same whatever `ST` holds, and leaves `ST`. -/
theorem exec_setSound {i : Instr} (hi : ∀ x, i ≠ .setSoundTimer x) (h : exec i s = .next t) :
    exec i (s.setSound b) = .next (t.setSound b) := by
  cases i with
  | setSoundTimer x => exact absurd rfl (hi x)
  | ret => exact next_setSound_of_ite b h (exec_ret_next s) (exec_ret_next _) rfl rfl
  | call addr => exact next_setSound_of_ite b h (exec_call_next addr s) (exec_call_next addr _) rfl rfl
  | drawSprite x y n =>
    exact next_setSound_of_ite b h (exec_drawSprite_next x y n s) (exec_drawSprite_next x y n _) rfl rfl
  | storeBCD x => exact next_setSound_of_ite b h (exec_storeBCD_next x s) (exec_storeBCD_next x _) rfl rfl
  | regDump x => exact next_setSound_of_ite b h (exec_regDump_next x s) (exec_regDump_next x _) rfl rfl
  | regLoad x => exact next_setSound_of_ite b h (exec_regLoad_next x s) (exec_regLoad_next x _) rfl rfl
  | skipKeyPressed x =>
    exact next_setSound_of_ite b h (exec_skipKeyPressed_next x s) (exec_skipKeyPressed_next x _) rfl
      (skipIf_setSound b s _)
  | skipKeyNotPressed x =>
    exact next_setSound_of_ite b h (exec_skipKeyNotPressed_next x s) (exec_skipKeyNotPressed_next x _) rfl
      (skipIf_setSound b s _)
  | getKeyPress x =>
    refine next_setSound_of_ite b h (exec_getKeyPress_next x s) (exec_getKeyPress_next x _) ?_ rfl
    rw [setSound_kbLastReleased]
    cases s.kbLastReleased with
    | none => rfl
    | some k => rfl
  | skipEqVal x val => exact next_skipIf_setSound b h rfl rfl
  | skipNotEqVal x val => exact next_skipIf_setSound b h rfl rfl
  | skipEq x y => exact next_skipIf_setSound b h rfl rfl
  | skipNotEq x y => exact next_skipIf_setSound b h rfl rfl
  | _ =>
    obtain rfl := Host.Outcome.next.inj h
    rfl

end

/-- Settles O47: SetSoundTimer overwrites `ST`, and every other operation commutes with a write to it. -/
theorem noOperationReadsTheSoundTimer : Obligations.NoOperationReadsTheSoundTimer := by
  intro i s t b h
  cases i with
  | setSoundTimer x =>
    obtain rfl := Host.Outcome.next.inj h
    rfl
  | _ => exact exec_setSound b (by simp) h

/-! ## What a step can do -/

/-- A step is a tick with the timestamp noted, a key event, or a reset, on the state with the move taken off. -/
theorem step_cases {s t : State} (h : step s = .next t) :
    (∃ now, (nextMove s).1 = .tick now ∧ s.lastNow ≤ now ∧
      tick now { s with hostMoves := s.hostMoves.tail, lastNow := now } = .next t) ∨
    (∃ k p, t = setPressed k p { s with hostMoves := s.hostMoves.tail }) ∨
    (∃ image t0, t = resetWith image t0 { s with hostMoves := s.hostMoves.tail }) := by
  rw [step, nextMove_state] at h
  rcases hostMove_cases h with ⟨now, hm, hle, ht⟩ | ⟨k, p, -, ht⟩ | ⟨image, t0, -, -, ht⟩
  · exact .inl ⟨now, hm, hle, ht⟩
  · exact .inr (.inl ⟨k, p, ht⟩)
  · exact .inr (.inr ⟨image, t0, ht⟩)

/-- The word at an address is there when both of its bytes are (rules R52, R102). -/
theorem wordAt_eq_some {s : State} {a w : Halfword} (h : s.wordAt a = some w) :
    a.toNat ≤ 4094 ∧ halfwordOfBytes (s.mem.read a.toNat) (s.mem.read (a.toNat + 1)) = w := by
  by_cases ha : a.toNat ≤ 4094
  · exact ⟨ha, Option.some.inj ((wordAt_of_le s ha).symm.trans h)⟩
  · rw [wordAt_of_gt s (by omega)] at h
    cases h

/-- What follows an instruction in its tick: nothing after a fault, else the two clocks. -/
theorem afterInstruction_cases (now : Nat) (s : State) :
    afterInstruction now s = s ∨ afterInstruction now s = timerClock now (rearmInstruction now s) := by
  unfold afterInstruction
  split
  · exact .inl rfl
  · exact .inr rfl

/-! ## The delay timer -/

theorem countDown_toNat_le (b : Byte) : (countDown b).toNat ≤ b.toNat := by
  unfold countDown
  split
  · exact Nat.zero_le _
  · bv_omega

theorem timerClock_DT_le (now : Nat) (s : State) : (timerClock now s).DT.toNat ≤ s.DT.toNat := by
  unfold timerClock
  split
  · exact countDown_toNat_le s.DT
  · exact Nat.le_refl _

theorem afterInstruction_DT_le (now : Nat) (s : State) : (afterInstruction now s).DT.toNat ≤ s.DT.toNat := by
  rcases afterInstruction_cases now s with e | e
  · rw [e]
  · rw [e]
    exact timerClock_DT_le now (rearmInstruction now s)

/-- An execute step changes the delay timer only when the word at `pc` is a SetDelayTimer. -/
theorem execute_DT {s t : State} (h : execute s = .next t) :
    t.DT = s.DT ∨ ∃ x, decode (halfwordOfBytes (s.mem.read s.pc.toNat) (s.mem.read (s.pc.toNat + 1))) =
      .operation (.setDelayTimer x) := by
  rcases execute_cases h with ⟨-, rfl⟩ | ⟨w, hw, ⟨-, rfl⟩ | ⟨i, hd, he⟩⟩
  · exact .inl rfl
  · exact .inl rfl
  · by_cases hi : ∃ x, i = .setDelayTimer x
    · obtain ⟨x, rfl⟩ := hi
      exact .inr ⟨x, (wordAt_eq_some hw).2 ▸ hd⟩
    · exact .inl ((exec_effect he).DT_eq fun x hx => hi ⟨x, hx⟩)

/-- Settles O18: of the moves only a tick that runs a SetDelayTimer can raise the delay timer. -/
theorem delayTimerRisesOnlyBySetDelayTimer : Obligations.DelayTimerRisesOnlyBySetDelayTimer := by
  intro s t h hlt
  rcases step_cases h with ⟨now, hm, -, ht⟩ | ⟨k, p, rfl⟩ | ⟨image, t0, rfl⟩
  · rcases tick_cases ht with ⟨r, -, rfl⟩ | ⟨hrun, -, u, hu, rfl⟩ | ⟨-, -, rfl⟩
    · exact absurd hlt (Nat.lt_irrefl _)
    · rcases execute_DT hu with hDT | ⟨x, hx⟩
      · have hle := afterInstruction_DT_le now u
        rw [hDT] at hle
        exact absurd hlt (Nat.not_lt_of_le hle)
      · exact ⟨hrun, now, x, hm, hx⟩
    · exact absurd hlt (Nat.not_lt_of_le (timerClock_DT_le now _))
  · exact absurd hlt (Nat.lt_irrefl _)
  · exact absurd hlt (Nat.not_lt_zero _)

/-! ## The invariants of the block -/

theorem resetWith_blockInv (image : List Byte) (t0 : Nat) (s : State) : BlockInv (resetWith image t0 s) :=
  ⟨Nat.zero_le _, fun _ => rfl, Nat.le_add_right _ _, Nat.le_add_right _ _⟩

/-- Settles O48: the tracker is clear and both deadlines are at the latest timestamp. -/
theorem resetMeetsTheBlockInvariants : Obligations.ResetMeetsTheBlockInvariants :=
  fun image t0 s => ⟨by decide, resetWith_blockInv image t0 s⟩

/-- No effect leaves a release recorded with the tracker not armed (rules R36, R216). -/
theorem Effect.keeps_tracker {i : Instr} {s t : State} (h : Effect s i t)
    (hs : s.kbTracking = false → s.kbLastReleased = none) : t.kbTracking = false → t.kbLastReleased = none := by
  cases h with
  | keyArms x => exact fun _ => rfl
  | keyCompletes x b => exact fun _ => rfl
  | _ => exact hs

theorem Effect.keeps_blockInv {i : Instr} {s t : State} (h : Effect s i t) (hs : BlockInv s) : BlockInv t := by
  obtain ⟨-, htrack, hinstr, htimer⟩ := hs
  obtain ⟨-, hi, ht, -, hnow, hunits, hperiod, -⟩ := h.host_eq
  refine ⟨Nat.le_of_lt_succ t.sp.isLt, h.keeps_tracker htrack, ?_, ?_⟩
  · rwa [hi, hnow, hunits]
  · rwa [ht, hnow, hperiod]

/-- An execute step keeps the invariants and the latest timestamp. -/
theorem execute_blockInv {s t : State} (h : execute s = .next t) (hs : BlockInv s) :
    BlockInv t ∧ t.lastNow = s.lastNow := by
  rcases execute_cases h with ⟨-, rfl⟩ | ⟨w, -, ⟨-, rfl⟩ | ⟨i, -, he⟩⟩
  · exact ⟨hs, rfl⟩
  · exact ⟨hs, rfl⟩
  · have e := exec_effect he
    obtain ⟨-, -, -, -, hnow, -⟩ := e.host_eq
    exact ⟨e.keeps_blockInv hs, hnow⟩

section

variable {now : Nat} {s : State}

/-- A later timestamp leaves more room for the deadlines. -/
theorem noteNow_blockInv (hs : BlockInv s) (hle : s.lastNow ≤ now) (moves : List HostMove) :
    BlockInv { s with hostMoves := moves, lastNow := now } := by
  obtain ⟨hsp, htrack, hinstr, htimer⟩ := hs
  exact ⟨hsp, htrack, hinstr.trans (Nat.add_le_add_right hle _), htimer.trans (Nat.add_le_add_right hle _)⟩

theorem timerClock_blockInv (hs : BlockInv s) (hnow : now ≤ s.lastNow) : BlockInv (timerClock now s) := by
  have ⟨hsp, htrack, hinstr, _⟩ := hs
  unfold timerClock
  split
  · exact ⟨hsp, htrack, hinstr, Nat.add_le_add_right hnow _⟩
  · exact hs

theorem rearmInstruction_blockInv (hs : BlockInv s) (hnow : now ≤ s.lastNow) :
    BlockInv (rearmInstruction now s) := by
  obtain ⟨hsp, htrack, -, htimer⟩ := hs
  exact ⟨hsp, htrack, Nat.add_le_add_right hnow _, htimer⟩

theorem afterInstruction_blockInv (hs : BlockInv s) (hnow : now ≤ s.lastNow) :
    BlockInv (afterInstruction now s) := by
  rcases afterInstruction_cases now s with e | e
  · rwa [e]
  · rw [e]
    exact timerClock_blockInv (rearmInstruction_blockInv hs hnow) hnow

theorem tick_blockInv {t : State} (h : tick now s = .next t) (hs : BlockInv s) (hnow : now ≤ s.lastNow) :
    BlockInv t := by
  rcases tick_cases h with ⟨r, -, rfl⟩ | ⟨-, -, u, hu, rfl⟩ | ⟨-, -, rfl⟩
  · exact hs
  · obtain ⟨hinv, hlast⟩ := execute_blockInv hu hs
    exact afterInstruction_blockInv hinv (hlast ▸ hnow)
  · exact timerClock_blockInv hs hnow

end

/-- A key event records a release only while the tracker is armed (rule R210). -/
theorem setPressed_blockInv {s : State} (hs : BlockInv s) (k : Key) (p : Bool) : BlockInv (setPressed k p s) := by
  obtain ⟨hsp, htrack, hdeadlines⟩ := hs
  refine ⟨hsp, fun hoff => ?_, hdeadlines⟩
  have hoff' : s.kbTracking = false := hoff
  simp [setPressed, hoff', htrack hoff']

/-- Settles O49: by the moves of a step, each of which keeps the invariants. -/
theorem stepKeepsTheBlockInvariants : Obligations.StepKeepsTheBlockInvariants := by
  intro s t hs h
  rcases step_cases h with ⟨now, -, hle, ht⟩ | ⟨k, p, rfl⟩ | ⟨image, t0, rfl⟩
  · exact tick_blockInv ht (noteNow_blockInv hs hle _) (Nat.le_refl _)
  · exact setPressed_blockInv hs k p
  · exact resetWith_blockInv image t0 _

/-! ## The bounds on pc -/

theorem advance_pc_toNat {s : State} (h : s.pc.toNat ≤ 4094) : s.advance.pc.toNat = s.pc.toNat + 2 := by
  simp only [State.advance, setPc_pc]
  bv_omega

/-- An operation from an advanced `pc`, which is at least 2 and at most 4096, keeps the bounds. -/
theorem Effect.pcInv {i : Instr} {s t : State} (h : Effect s i t) (hlo : 2 ≤ s.pc.toNat) (hhi : s.pc.toNat ≤ 4096)
    (hstack : ∀ j : Fin 16, s.stack[j].toNat ≤ 4096) : PcInv t := by
  have hback : (s.pc - 2).toNat ≤ 0x10FE := by bv_omega
  have hpc : s.pc.toNat ≤ 0x10FE := by omega
  cases h with
  | fault i cause info => exact ⟨hback, hstack⟩
  | keyArms x => exact ⟨hback, hstack⟩
  | keyRepeats x => exact ⟨hback, hstack⟩
  | goto i a ha =>
    refine ⟨?_, hstack⟩
    rcases ha with rfl | rfl | ha
    · exact hpc
    · rw [setPc_pc]
      bv_omega
    · exact ha
  | call addr hsp =>
    refine ⟨?_, fun j => ?_⟩
    · rw [setPc_pc, addressOperand_toNat]
      omega
    · rw [setPc_stack, push_stack_get s s.pc hsp j]
      split
      · exact hhi
      · exact hstack j
  | ret => exact ⟨(hstack _).trans (by decide), hstack⟩
  | _ => exact ⟨hpc, hstack⟩

theorem execute_pcInv {s t : State} (h : execute s = .next t) (hs : PcInv s) : PcInv t := by
  obtain ⟨hpc, hstack⟩ := hs
  rcases execute_cases h with ⟨-, rfl⟩ | ⟨w, hw, hw'⟩
  · exact ⟨hpc, hstack⟩
  · obtain ⟨hfetch, -⟩ := wordAt_eq_some hw
    have hadv := advance_pc_toNat hfetch
    rcases hw' with ⟨-, rfl⟩ | ⟨i, -, he⟩
    · exact ⟨by omega, hstack⟩
    · exact (exec_effect he).pcInv (by omega) (by omega) hstack

/-- The clocks write neither `pc` nor the stack. -/
theorem timerClock_pcInv {s : State} (hs : PcInv s) (now : Nat) : PcInv (timerClock now s) := by
  unfold timerClock
  split
  · exact hs
  · exact hs

theorem afterInstruction_pcInv {s : State} (hs : PcInv s) (now : Nat) : PcInv (afterInstruction now s) := by
  rcases afterInstruction_cases now s with e | e
  · rwa [e]
  · rw [e]
    exact timerClock_pcInv (s := rearmInstruction now s) hs now

theorem tick_pcInv {now : Nat} {s t : State} (h : tick now s = .next t) (hs : PcInv s) : PcInv t := by
  rcases tick_cases h with ⟨r, -, rfl⟩ | ⟨-, -, u, hu, rfl⟩ | ⟨-, -, rfl⟩
  · exact hs
  · exact afterInstruction_pcInv (execute_pcInv hu hs) now
  · exact timerClock_pcInv hs now

theorem reset_pcInv : PcInv State.reset := by decide

/-- Settles O51: of the moves only a tick writes `pc` or the stack, but for a reset. -/
theorem stepKeepsThePcBounds : Obligations.StepKeepsThePcBounds := by
  refine ⟨reset_pcInv, fun s t hs h => ?_⟩
  rcases step_cases h with ⟨now, -, -, ht⟩ | ⟨k, p, rfl⟩ | ⟨image, t0, rfl⟩
  · exact tick_pcInv ht hs
  · exact hs
  · exact reset_pcInv

/-! ## A reset move -/

theorem load_tooLong {image : List Byte} (h : image.length > 3584) (t0 : Nat) (s : State) :
    load image t0 s = .refused .imageTooLong := by
  have hn : ¬ image.length ≤ 3584 := by omega
  simp [load, imageFits, hn]

theorem load_fits {image : List Byte} (h : image.length ≤ 3584) (t0 : Nat) (s : State) :
    load image t0 s = .next (resetWith image t0 s) := by
  simp [load, imageFits, h]

theorem step_resetMove {image : List Byte} {t0 : Nat} {moves : List HostMove} {s : State}
    (h : s.hostMoves = .reset image t0 :: moves) : step s = load image t0 { s with hostMoves := moves } := by
  simp [step, nextMove, h, hostMove]

/-- Settles O52: the step is the load, which a too long image refuses. -/
theorem aResetMoveAnswersTheLoad : Obligations.AResetMoveAnswersTheLoad := by
  intro image t0 moves s h
  rw [step_resetMove h]
  exact ⟨rfl, fun hl => load_tooLong hl t0 _,
    fun hl => ⟨_, load_fits hl t0 _, rfl, rfl, rfl, rfl, rfl, rfl⟩⟩

end Sys2Proof.Machine

/-! PROOFS. The memory of the block (20_memory.md): its canonical form is kept by every step. -/

namespace Sys2Proof.Machine

/-! ## What keeps the canonical form -/

/-- A checked access keeps the canonical form when its effect does so in range: a fault writes no memory (rule R57). -/
theorem withRange_mem_wf {len : Nat} {k : State → State} {s t : State} (h : withRange len k s = .next t)
    (hs : s.mem.wf = true) (hk : s.I.toNat + len ≤ 4096 → (k s).mem.wf = true) : t.mem.wf = true := by
  obtain rfl := Host.Outcome.next.inj ((withRange_next len k s).symm.trans h)
  split
  · exact hk ‹_›
  · exact hs

theorem storeDigits_mem_wf {s : State} (hs : s.mem.wf = true) (x : Reg) (hr : s.I.toNat + 3 ≤ 4096) :
    (storeDigits x s).mem.wf = true :=
  Memory.wf_writeBytes _ hs hr

theorem dumpFirst_mem_wf {s : State} (hs : s.mem.wf = true) (x : Reg) (hr : s.I.toNat + regCount x ≤ 4096) :
    (dumpFirst x s).mem.wf = true :=
  wf_dumpRegs s.V s.I.toNat (regCount x) hs hr

/-- The two storing operations check their range first, and no other operation writes memory. -/
theorem exec_mem_wf {i : Instr} {s t : State} (h : exec i s = .next t) (hs : s.mem.wf = true) :
    t.mem.wf = true := by
  cases i with
  | storeBCD x => exact withRange_mem_wf h hs (storeDigits_mem_wf hs x)
  | regDump x => exact withRange_mem_wf h hs (dumpFirst_mem_wf hs x)
  | _ => rwa [(exec_effect h).mem_eq (by simp)]

theorem execute_mem_wf {s t : State} (h : execute s = .next t) (hs : s.mem.wf = true) : t.mem.wf = true := by
  rcases execute_cases h with ⟨-, rfl⟩ | ⟨w, -, ⟨-, rfl⟩ | ⟨i, -, he⟩⟩
  · exact hs
  · exact hs
  · exact exec_mem_wf he hs

@[simp] theorem timerClock_mem (now : Nat) (s : State) : (timerClock now s).mem = s.mem := by
  unfold timerClock
  split
  · rfl
  · rfl

@[simp] theorem afterInstruction_mem (now : Nat) (s : State) : (afterInstruction now s).mem = s.mem := by
  rcases afterInstruction_cases now s with e | e
  · rw [e]
  · rw [e, timerClock_mem]
    rfl

theorem tick_mem_wf {now : Nat} {s t : State} (h : tick now s = .next t) (hs : s.mem.wf = true) :
    t.mem.wf = true := by
  rcases tick_cases h with ⟨r, -, rfl⟩ | ⟨-, -, u, hu, rfl⟩ | ⟨-, -, rfl⟩
  · exact hs
  · rw [afterInstruction_mem]
    exact execute_mem_wf hu hs
  · rwa [timerClock_mem]

/-- A reset writes the glyphs, and the image where it fits, into the empty memory (rules R281, R285). -/
theorem resetWith_mem_wf {image : List Byte} (hfits : image.length ≤ 3584) (t0 : Nat) (s : State) :
    (resetWith image t0 s).mem.wf = true := by
  have hglyphs : 0 + s.glyphs.toList.length ≤ 4096 := by simp
  have himage : 512 + image.length ≤ 4096 := by omega
  exact Memory.wf_writeBytes image (Memory.wf_writeBytes s.glyphs.toList rfl hglyphs) himage

/-- Settles O50: of the moves only a tick, by a storing operation in range, and a reset with a fitting image write
memory. -/
theorem stepKeepsTheMemoryCanonical : Obligations.StepKeepsTheMemoryCanonical := by
  refine ⟨rfl, fun s t hs h => ?_⟩
  rw [step, nextMove_state] at h
  rcases hostMove_cases h with ⟨now, -, -, ht⟩ | ⟨k, p, -, rfl⟩ | ⟨image, t0, -, hfits, rfl⟩
  · exact tick_mem_wf ht hs
  · exact hs
  · exact resetWith_mem_wf hfits t0 _

end Sys2Proof.Machine

/-! PROOFS. The encoding (30_encoding.md): the decoder and the encoder are inverse but for the `y` field of a shift, and
the decoder is the opcode map. -/

namespace Sys2Proof

/-! ## A word from its fields (rules R71, R72) -/

theorem eq_ofNat_of_toNat_eq {m k : Nat} {a : BitVec m} (h : a.toNat = k) : a = BitVec.ofNat m k := by
  rw [← h, BitVec.ofNat_toNat, BitVec.setWidth_eq]

theorem encodeA_fields (w : Halfword) : encodeA (opField w) (nnnField w) = w := by
  apply BitVec.eq_of_toNat_eq
  rw [encodeA_toNat, opField_toNat, nnnField_toNat]
  omega

theorem encodeXN_fields (w : Halfword) : encodeXN (opField w) (xField w) (nnField w) = w := by
  apply BitVec.eq_of_toNat_eq
  rw [encodeXN_toNat, opField_toNat, xField_val, nnField_toNat]
  omega

theorem encodeXYN_fields (w : Halfword) : encodeXYN (opField w) (xField w) (yField w) (nField w) = w := by
  apply BitVec.eq_of_toNat_eq
  rw [encodeXYN_toNat, opField_toNat, xField_val, yField_val, nField_toNat]
  omega

/-- Clearing bits 7..4 of a word sets its field `y` to 0. -/
theorem encodeXYN_and_shiftMask (op1 : Nibble) (x y : Reg) (n : Nibble) :
    encodeXYN op1 x y n &&& 0xFF0F = encodeXYN op1 x 0 n := by
  apply BitVec.eq_of_getLsbD_eq
  intro b hb
  simp only [BitVec.getLsbD_and, encodeXYN_getLsbD]
  interval_cases b <;> simp

section
variable {w : Halfword} {k : Nat} (hop : (opField w).toNat = k)
include hop

theorem encodeA_of_opField : encodeA (BitVec.ofNat 4 k) (nnnField w) = w := by
  rw [← eq_ofNat_of_toNat_eq hop, encodeA_fields]

theorem encodeXN_of_opField : encodeXN (BitVec.ofNat 4 k) (xField w) (nnField w) = w := by
  rw [← eq_ofNat_of_toNat_eq hop, encodeXN_fields]

theorem encodeXYN_of_opField : encodeXYN (BitVec.ofNat 4 k) (xField w) (yField w) (nField w) = w := by
  rw [← eq_ofNat_of_toNat_eq hop, encodeXYN_fields]

end

/-! ## Decoding the word of an operation -/

/-- Settles O2: the word of each operation has the fields that its format wrote, and they select that operation. -/
theorem decodeOfEncodeIsTheOperation : Obligations.DecodeOfEncodeIsTheOperation := by
  intro i
  cases i with
  | clearDisplay => rfl
  | ret => rfl
  | jump _ | call _ | setIndex _ | jumpOffset _ => simp [encode, decode]
  | skipEqVal _ _ | skipNotEqVal _ _ | setVal _ _ | addVal _ _ | rand _ _ => simp [encode, decode]
  | skipEq _ _ | skipNotEq _ _ | drawSprite _ _ _ => simp [encode, decode]
  | copy _ _ | or _ _ | and _ _ | xor _ _ | add _ _ | subtract _ _ | difference _ _ | shiftRight _ | shiftLeft _ =>
    simp [encode, decode, decodeFamily8]
  | skipKeyPressed _ | skipKeyNotPressed _ => simp [encode, decode, decodeFamilyE]
  | _ => simp [encode, decode, decodeFamilyF]

/-! ## The word of a decoded operation -/

/-- The word `w` as far as the operation `i` reads it: a shift ignores bits 7..4 (rule R78). -/
def wordRead (i : Instr) (w : Halfword) : Halfword :=
  match i with
  | .shiftRight _ | .shiftLeft _ => w &&& 0xFF0F
  | _ => w

theorem encode_of_decodeFamily0 {w : Halfword} {i : Instr} (h : decodeFamily0 w = .operation i) :
    encode i = wordRead i w := by
  unfold decodeFamily0 at h
  split at h
  · next hw => cases h; exact hw.symm
  · split at h
    · next hw => cases h; exact hw.symm
    · cases h

theorem encode_of_decodeFamily8 {x y : Reg} {n : Nibble} {i : Instr} (h : decodeFamily8 x y n = .operation i) :
    encode i = wordRead i (encodeXYN 0x8 x y n) := by
  unfold decodeFamily8 at h
  split at h
  case h_7 hn | h_9 hn =>
    cases h
    rw [eq_ofNat_of_toNat_eq hn]
    exact (encodeXYN_and_shiftMask _ _ _ _).symm
  case h_10 => cases h
  all_goals
    next hn =>
      cases h
      rw [eq_ofNat_of_toNat_eq hn]
      rfl

theorem encode_of_decodeFamilyE {x : Reg} {nn : Byte} {i : Instr} (h : decodeFamilyE x nn = .operation i) :
    encode i = wordRead i (encodeXN 0xE x nn) := by
  unfold decodeFamilyE at h
  split at h
  case h_3 => cases h
  all_goals
    next hnn =>
      cases h
      rw [eq_ofNat_of_toNat_eq hnn]
      rfl

theorem encode_of_decodeFamilyF {x : Reg} {nn : Byte} {i : Instr} (h : decodeFamilyF x nn = .operation i) :
    encode i = wordRead i (encodeXN 0xF x nn) := by
  unfold decodeFamilyF at h
  split at h
  case h_10 => cases h
  all_goals
    next hnn =>
      cases h
      rw [eq_ofNat_of_toNat_eq hnn]
      rfl

/-- The families 0x5 and 0x9, whose low nibble must be 0. -/
theorem encodeXYN_of_nField_zero {w : Halfword} {k : Nat} (hop : (opField w).toNat = k) (hn : nField w = 0) :
    encodeXYN (BitVec.ofNat 4 k) (xField w) (yField w) 0 = w := by
  rw [← hn, encodeXYN_of_opField hop]

/-- The word of a decoded operation is the decoded word as far as the operation reads it. -/
theorem encode_of_decode {w : Halfword} {i : Instr} (h : decode w = .operation i) : encode i = wordRead i w := by
  unfold decode at h
  split at h
  case h_1 => exact encode_of_decodeFamily0 h
  case h_2 hop | h_3 hop | h_11 hop | h_12 hop => cases h; exact encodeA_of_opField hop
  case h_4 hop | h_5 hop | h_7 hop | h_8 hop | h_13 hop => cases h; exact encodeXN_of_opField hop
  case h_6 hop | h_10 hop =>
    split at h
    · next hn => cases h; exact encodeXYN_of_nField_zero hop hn
    · cases h
  case h_9 hop => exact encodeXYN_of_opField hop ▸ encode_of_decodeFamily8 h
  case h_14 hop => cases h; exact encodeXYN_of_opField hop
  case h_15 hop => exact encodeXN_of_opField hop ▸ encode_of_decodeFamilyE h
  case h_16 =>
    have hop : (opField w).toNat = 15 := by
      simp only [imp_false] at *
      omega
    exact encodeXN_of_opField hop ▸ encode_of_decodeFamilyF h

/-- Settles O3: the fields of the word are those that the encoder writes, and a shift reads it without bits 7..4. -/
theorem encodeOfDecodeLosesOnlyTheShiftField : Obligations.EncodeOfDecodeLosesOnlyTheShiftField := by
  intro w i h
  exact encode_of_decode h

/-! ## The words that a row selects (rule R75) -/

section
variable {name : String} {mask v w : Halfword} (h : rowSelects (name, mask, v) w = true)
include h

theorem and_mask_of_rowSelects : w &&& mask = v :=
  eq_of_beq h

/-- Where the mask of a row is all ones on a field, the row gives the field. -/
theorem opField_of_rowSelects (hm : opField mask = BitVec.allOnes 4) : opField w = opField v := by
  have hand : opField (w &&& mask) = opField w &&& opField mask := BitVec.extractLsb'_and
  rw [← and_mask_of_rowSelects h, hand, hm, BitVec.and_allOnes]

theorem nField_of_rowSelects (hm : nField mask = BitVec.allOnes 4) : nField w = nField v := by
  have hand : nField (w &&& mask) = nField w &&& nField mask := BitVec.extractLsb'_and
  rw [← and_mask_of_rowSelects h, hand, hm, BitVec.and_allOnes]

theorem nnField_of_rowSelects (hm : nnField mask = BitVec.allOnes 8) : nnField w = nnField v := by
  have hand : nnField (w &&& mask) = nnField w &&& nnField mask := BitVec.extractLsb'_and
  rw [← and_mask_of_rowSelects h, hand, hm, BitVec.and_allOnes]

end

section
variable {w : Halfword} {name : String} {op1 n : Nibble} {nn : Byte}

theorem encodeA_eq_of_rowSelects (h : rowSelects (name, 0xF000, encodeA op1 0) w = true) :
    encodeA op1 (nnnField w) = w := by
  have hop : opField w = op1 := (opField_of_rowSelects h (by decide)).trans (opField_encodeA _ _)
  rw [← hop, encodeA_fields]

theorem encodeXN_eq_of_rowSelects (h : rowSelects (name, 0xF000, encodeXN op1 0 0) w = true) :
    encodeXN op1 (xField w) (nnField w) = w := by
  have hop : opField w = op1 := (opField_of_rowSelects h (by decide)).trans (opField_encodeXN _ _ _)
  rw [← hop, encodeXN_fields]

theorem encodeX_eq_of_rowSelects (h : rowSelects (name, 0xF0FF, encodeXN op1 0 nn) w = true) :
    encodeXN op1 (xField w) nn = w := by
  have hop : opField w = op1 := (opField_of_rowSelects h (by decide)).trans (opField_encodeXN _ _ _)
  have hnn : nnField w = nn := (nnField_of_rowSelects h (by decide)).trans (nnField_encodeXN _ _ _)
  rw [← hop, ← hnn, encodeXN_fields]

theorem encodeXYN_eq_of_rowSelects (h : rowSelects (name, 0xF000, encodeXYN op1 0 0 0) w = true) :
    encodeXYN op1 (xField w) (yField w) (nField w) = w := by
  have hop : opField w = op1 := (opField_of_rowSelects h (by decide)).trans (opField_encodeXYN _ _ _ _)
  rw [← hop, encodeXYN_fields]

theorem encodeXY_eq_of_rowSelects (h : rowSelects (name, 0xF00F, encodeXYN op1 0 0 n) w = true) :
    encodeXYN op1 (xField w) (yField w) n = w := by
  have hop : opField w = op1 := (opField_of_rowSelects h (by decide)).trans (opField_encodeXYN _ _ _ _)
  have hn : nField w = n := (nField_of_rowSelects h (by decide)).trans (nField_encodeXYN _ _ _ _)
  rw [← hop, ← hn, encodeXYN_fields]

end

/-! ## Each row decodes to its operation (rule R90) -/

/-- The words of the row decode to the row's operation with the operands of their fields. -/
def RowDecodes (row : String × Halfword × Halfword) : Prop :=
  ∀ w, rowSelects row w = true →
    ∃ i ks, decode w = .operation i ∧ operandKinds row.1 = some ks ∧
      i.source = ⟨row.1, Machine.fieldOperands w ks⟩

theorem decode_of_encode_eq {w : Halfword} {i : Instr} (h : encode i = w) : decode w = .operation i :=
  h ▸ decodeOfEncodeIsTheOperation i

/-! The hypotheses with a default are closed for each row by evaluating the encoder, the source line and the operand
positions. -/

section
variable {name : String} (op1 n : Nibble) (nn : Byte)

theorem rowDecodes_fixed {w : Halfword} (i : Instr)
    (he : encode i = w := by rfl)
    (hs : i.source = ⟨name, []⟩ := by rfl)
    (hk : operandKinds name = some [] := by rfl) : RowDecodes (name, 0xFFFF, w) := by
  intro w' h
  have hw : w' = w := (BitVec.and_allOnes (x := w')).symm.trans (and_mask_of_rowSelects h)
  exact ⟨i, [], decode_of_encode_eq (he.trans hw.symm), hk, hs⟩

theorem rowDecodes_address (f : Addr → Instr)
    (he : ∀ a, encode (f a) = encodeA op1 a := by intro _; rfl)
    (hs : ∀ a, (f a).source = ⟨name, [a.toNat]⟩ := by intro _; rfl)
    (hk : operandKinds name = some [.address] := by rfl) : RowDecodes (name, 0xF000, encodeA op1 0) := by
  intro w h
  refine ⟨f (nnnField w), _, decode_of_encode_eq ((he _).trans (encodeA_eq_of_rowSelects h)), hk, ?_⟩
  rw [hs, nnnField_toNat]
  rfl

theorem rowDecodes_registerImmediate (f : Reg → Byte → Instr)
    (he : ∀ x val, encode (f x val) = encodeXN op1 x val := by intro _ _; rfl)
    (hs : ∀ x val, (f x val).source = ⟨name, [x.val, val.toNat]⟩ := by intro _ _; rfl)
    (hk : operandKinds name = some [.register, .immediate] := by rfl) :
    RowDecodes (name, 0xF000, encodeXN op1 0 0) := by
  intro w h
  refine ⟨f (xField w) (nnField w), _, decode_of_encode_eq ((he _ _).trans (encodeXN_eq_of_rowSelects h)), hk, ?_⟩
  rw [hs, xField_val, nnField_toNat]
  rfl

theorem rowDecodes_register (f : Reg → Instr)
    (he : ∀ x, encode (f x) = encodeXN op1 x nn := by intro _; rfl)
    (hs : ∀ x, (f x).source = ⟨name, [x.val]⟩ := by intro _; rfl)
    (hk : operandKinds name = some [.register] := by rfl) : RowDecodes (name, 0xF0FF, encodeXN op1 0 nn) := by
  intro w h
  refine ⟨f (xField w), _, decode_of_encode_eq ((he _).trans (encodeX_eq_of_rowSelects h)), hk, ?_⟩
  rw [hs, xField_val]
  rfl

theorem rowDecodes_registers (f : Reg → Reg → Instr)
    (he : ∀ x y, encode (f x y) = encodeXYN op1 x y n := by intro _ _; rfl)
    (hs : ∀ x y, (f x y).source = ⟨name, [x.val, y.val]⟩ := by intro _ _; rfl)
    (hk : operandKinds name = some [.register, .register] := by rfl) :
    RowDecodes (name, 0xF00F, encodeXYN op1 0 0 n) := by
  intro w h
  refine ⟨f (xField w) (yField w), _, decode_of_encode_eq ((he _ _).trans (encodeXY_eq_of_rowSelects h)), hk, ?_⟩
  rw [hs, xField_val, yField_val]
  rfl

/-- The field `y` of a shift is no operand, and the word need not be the one that the encoder writes (rule R78). -/
theorem rowDecodes_shift (f : Reg → Instr)
    (hd : ∀ x y, decode (encodeXYN op1 x y n) = .operation (f x))
    (hs : ∀ x, (f x).source = ⟨name, [x.val]⟩ := by intro _; rfl)
    (hk : operandKinds name = some [.register] := by rfl) : RowDecodes (name, 0xF00F, encodeXYN op1 0 0 n) := by
  intro w h
  have hdw := hd (xField w) (yField w)
  rw [encodeXY_eq_of_rowSelects h] at hdw
  refine ⟨f (xField w), _, hdw, hk, ?_⟩
  rw [hs, xField_val]
  rfl

end

theorem rowDecodes_drawSprite : RowDecodes ("DrawSprite", 0xF000, 0xD000) := by
  intro w h
  refine ⟨.drawSprite (xField w) (yField w) (nField w), [.register, .register, .count],
    decode_of_encode_eq (encodeXYN_eq_of_rowSelects h), rfl, ?_⟩
  rw [Instr.source, xField_val, yField_val, nField_toNat]
  rfl

theorem decode_shiftRight (x y : Reg) : decode (encodeXYN 0x8 x y 0x6) = .operation (.shiftRight x) := by
  simp [decode, decodeFamily8]

theorem decode_shiftLeft (x y : Reg) : decode (encodeXYN 0x8 x y 0xE) = .operation (.shiftLeft x) := by
  simp [decode, decodeFamily8]

/-- The rows in the order of the opcode map. -/
theorem opcodeTable_rowDecodes : ∀ row ∈ opcodeTable, RowDecodes row := by
  simp only [opcodeTable, List.cons_append, List.nil_append, List.forall_mem_cons]
  exact ⟨rowDecodes_fixed .clearDisplay,
    rowDecodes_fixed .ret,
    rowDecodes_address 0x1 .jump,
    rowDecodes_address 0x2 .call,
    rowDecodes_registerImmediate 0x3 .skipEqVal,
    rowDecodes_registerImmediate 0x4 .skipNotEqVal,
    rowDecodes_registers 0x5 0x0 .skipEq,
    rowDecodes_registerImmediate 0x6 .setVal,
    rowDecodes_registerImmediate 0x7 .addVal,
    rowDecodes_registers 0x8 0x0 .copy,
    rowDecodes_registers 0x8 0x1 .or,
    rowDecodes_registers 0x8 0x2 .and,
    rowDecodes_registers 0x8 0x3 .xor,
    rowDecodes_registers 0x8 0x4 .add,
    rowDecodes_registers 0x8 0x5 .subtract,
    rowDecodes_shift 0x8 0x6 .shiftRight decode_shiftRight,
    rowDecodes_registers 0x8 0x7 .difference,
    rowDecodes_shift 0x8 0xE .shiftLeft decode_shiftLeft,
    rowDecodes_registers 0x9 0x0 .skipNotEq,
    rowDecodes_address 0xA .setIndex,
    rowDecodes_address 0xB .jumpOffset,
    rowDecodes_registerImmediate 0xC .rand,
    rowDecodes_drawSprite,
    rowDecodes_register 0xE 0x9E .skipKeyPressed,
    rowDecodes_register 0xE 0xA1 .skipKeyNotPressed,
    rowDecodes_register 0xF 0x07 .getDelayTimer,
    rowDecodes_register 0xF 0x0A .getKeyPress,
    rowDecodes_register 0xF 0x15 .setDelayTimer,
    rowDecodes_register 0xF 0x18 .setSoundTimer,
    rowDecodes_register 0xF 0x1E .addIndex,
    rowDecodes_register 0xF 0x29 .setIndexCharacter,
    rowDecodes_register 0xF 0x33 .storeBCD,
    rowDecodes_register 0xF 0x55 .regDump,
    rowDecodes_register 0xF 0x65 .regLoad,
    by simp⟩

/-! ## The rows are disjoint, and they are all that is recognized (rule R90) -/

/-- No two rows have one name. -/
theorem opcodeTable_name_injective :
    ∀ row ∈ opcodeTable, ∀ row' ∈ opcodeTable, row.1 = row'.1 → row = row' := by
  decide

/-- Two rows that select one word both name the operation it decodes to. -/
theorem row_eq_of_rowSelects {row row' : String × Halfword × Halfword} (hrow : row ∈ opcodeTable)
    (hrow' : row' ∈ opcodeTable) {w : Halfword} (h : rowSelects row w = true) (h' : rowSelects row' w = true) :
    row = row' := by
  obtain ⟨i, ks, hi, -, hs⟩ := opcodeTable_rowDecodes row hrow w h
  obtain ⟨i', ks', hi', -, hs'⟩ := opcodeTable_rowDecodes row' hrow' w h'
  obtain rfl : i = i' := Verdict.operation.inj (hi.symm.trans hi')
  exact opcodeTable_name_injective row hrow row' hrow' (congrArg SourceLine.mnemonic (hs.symm.trans hs'))

open Laws in
/-- The word of every operation is one of its own row. -/
theorem encodesItsRow (i : Instr) : EncodesItsRow.Statement i :=
  match i with
  | .clearDisplay => EncodesItsRow.clearDisplay
  | .ret => EncodesItsRow.ret
  | .jump addr => EncodesItsRow.jump addr
  | .call addr => EncodesItsRow.call addr
  | .skipEqVal x val => EncodesItsRow.skipEqVal x val
  | .skipNotEqVal x val => EncodesItsRow.skipNotEqVal x val
  | .skipEq x y => EncodesItsRow.skipEq x y
  | .setVal x val => EncodesItsRow.setVal x val
  | .addVal x val => EncodesItsRow.addVal x val
  | .copy x y => EncodesItsRow.copy x y
  | .or x y => EncodesItsRow.or x y
  | .and x y => EncodesItsRow.and x y
  | .xor x y => EncodesItsRow.xor x y
  | .add x y => EncodesItsRow.add x y
  | .subtract x y => EncodesItsRow.subtract x y
  | .shiftRight x => EncodesItsRow.shiftRight x
  | .difference x y => EncodesItsRow.difference x y
  | .shiftLeft x => EncodesItsRow.shiftLeft x
  | .skipNotEq x y => EncodesItsRow.skipNotEq x y
  | .setIndex addr => EncodesItsRow.setIndex addr
  | .jumpOffset addr => EncodesItsRow.jumpOffset addr
  | .rand x val => EncodesItsRow.rand x val
  | .drawSprite x y n => EncodesItsRow.drawSprite x y n
  | .skipKeyPressed x => EncodesItsRow.skipKeyPressed x
  | .skipKeyNotPressed x => EncodesItsRow.skipKeyNotPressed x
  | .getDelayTimer x => EncodesItsRow.getDelayTimer x
  | .getKeyPress x => EncodesItsRow.getKeyPress x
  | .setDelayTimer x => EncodesItsRow.setDelayTimer x
  | .setSoundTimer x => EncodesItsRow.setSoundTimer x
  | .addIndex x => EncodesItsRow.addIndex x
  | .setIndexCharacter x => EncodesItsRow.setIndexCharacter x
  | .storeBCD x => EncodesItsRow.storeBCD x
  | .regDump x => EncodesItsRow.regDump x
  | .regLoad x => EncodesItsRow.regLoad x

/-- A row with the mask of a shift does not look at bits 7..4. -/
theorem rowSelects_and_shiftMask (name : String) (v w : Halfword) :
    rowSelects (name, 0xF00F, v) (w &&& 0xFF0F) = rowSelects (name, 0xF00F, v) w := by
  simp [rowSelects, BitVec.and_assoc]

/-- A recognized word is a word of its operation's row. -/
theorem exists_row_of_decode {w : Halfword} {i : Instr} (h : decode w = .operation i) :
    ∃ row ∈ opcodeTable, rowSelects row w = true := by
  have he := encode_of_decode h
  cases i with
  | shiftRight x =>
    have he : encode (.shiftRight x) = w &&& 0xFF0F := he
    refine ⟨("ShiftRight", 0xF00F, 0x8006), by decide, ?_⟩
    rw [← rowSelects_and_shiftMask, ← he]
    exact Laws.rowSelects_encodeXY _ _ _ _ _
  | shiftLeft x =>
    have he : encode (.shiftLeft x) = w &&& 0xFF0F := he
    refine ⟨("ShiftLeft", 0xF00F, 0x800E), by decide, ?_⟩
    rw [← rowSelects_and_shiftMask, ← he]
    exact Laws.rowSelects_encodeXY _ _ _ _ _
  | _ =>
    obtain ⟨row, hrow, -, hsel⟩ := encodesItsRow _
    exact ⟨row, hrow, (show _ = w from he) ▸ hsel⟩

/-- Settles O4: each row decodes to the operation it names, so two rows of one word are one row, and a recognized word
is a word of its operation's row. -/
theorem decoderIsTheOpcodeTable : Obligations.DecoderIsTheOpcodeTable := by
  refine ⟨opcodeTable_rowDecodes, fun row hrow row' hrow' w => row_eq_of_rowSelects hrow hrow', fun w hnone => ?_⟩
  cases hd : decode w with
  | unrecognized => rfl
  | operation i =>
    obtain ⟨row, hrow, hsel⟩ := exists_row_of_decode hd
    simp [hnone row hrow] at hsel

/-! ## Words of every family -/

/-- Settles O1: the decoder evaluated on each word. -/
theorem wordsOfEveryFamilyDecode : Obligations.WordsOfEveryFamilyDecode := by
  unfold Obligations.WordsOfEveryFamilyDecode
  decide

end Sys2Proof

/-! PROOFS. The execute cycle (40_execute_cycle.md): the fetch, the operation that follows it, its faults, and the tick
that runs it. -/

namespace Sys2Proof.Machine

/-! ## The fetch and the default advance -/

section

variable {s : State} {w : Halfword}

theorem execute_of_fetchFault (h : s.pc.toNat > 4094) :
    execute s = .next (takeFault s.pc .fetchOutOfRange (.pc s.pc) s) := by
  simp only [execute, wordAt_of_gt s h]

theorem execute_of_unrecognized (hw : s.wordAt s.pc = some w) (hd : decode w = .unrecognized) :
    execute s = .next s.advance := by
  simp only [execute, hw, hd]

theorem execute_of_operation {i : Instr} (hw : s.wordAt s.pc = some w) (hd : decode w = .operation i) :
    execute s = exec i s.advance := by
  simp only [execute, hw, hd]

/-- The fetch is big-endian (rules R52, R102). -/
theorem wordAt_of_toNat_eq {a : Halfword} (ha : a.toNat ≤ 4094)
    (hw : w.toNat = (s.mem.read a.toNat).toNat * 256 + (s.mem.read (a.toNat + 1)).toNat) :
    s.wordAt a = some w := by
  have hword : halfwordOfBytes (s.mem.read a.toNat) (s.mem.read (a.toNat + 1)) = w :=
    BitVec.eq_of_toNat_eq ((halfwordOfBytes_toNat _ _).trans hw.symm)
  rw [wordAt_of_le s ha, hword]

end

/-- Taking a fault at `pc` itself changes the run state alone (rule R105). -/
theorem takeFault_pc_eq (cause : Cause) (info : FaultInfo) (s : State) :
    takeFault s.pc cause info s =
      { s with runState := .halted { cause := cause, pc := s.pc, word := fetchedWord s, info := info } } := by
  rw [takeFault, wordAt_pc]

theorem fetchedWord_of_gt {s : State} (h : s.pc.toNat > 4094) : fetchedWord s = none := if_pos h

/-- Settles O5, by the three cases of the cycle: a fetch past address 4094, a word of no row, an operation. -/
theorem executeFetchesAdvancesAndPerforms : Obligations.ExecuteFetchesAdvancesAndPerforms := by
  refine fun s => ⟨fun hgt => ?_, fun hle w hw => ?_⟩
  · rw [execute_of_fetchFault hgt, takeFault_pc_eq, fetchedWord_of_gt hgt]
  · have hword : s.wordAt s.pc = some w := wordAt_of_toNat_eq hle hw
    exact ⟨fun hd => execute_of_unrecognized hword hd, fun i hd => execute_of_operation hword hd⟩

/-! ## The fault of an operation -/

/-- The state `u` when the fault table names no fault, else `s` with the fault taken at the instruction's address. -/
def orFault (fault : Option (Cause × FaultInfo)) (s u : State) : State :=
  match fault with
  | none => u
  | some (cause, info) => takeFault (s.pc - 2) cause info s

section

variable (s u : State)

/-- A row of the fault table in force takes its fault, and one out of force leaves the effect. -/
theorem orFault_ite (c : Prop) [Decidable c] (cause : Cause) (info : FaultInfo) :
    orFault (if c then some (cause, info) else none) s u = if c then takeFault (s.pc - 2) cause info s else u :=
  apply_ite (orFault · s u) c _ _

/-- A checked access takes the fault of its range, else its effect. -/
theorem withRange_orFault (len : Nat) (k : State → State) :
    withRange len k s = .next (orFault (rangeFault s len) s (k s)) := by
  rw [withRange_next, rangeFault, orFault_ite]
  simp only [← not_le, ite_not]

/-- A key skip takes the fault of its register, else skips or not. -/
theorem skipOnKey_orFault (x : Reg) (wanted : Bool) :
    skipOnKey x wanted s = .next
      (orFault (keyFault s x) s (s.skipIf (s.KEY[Fin.ofNat 16 s.V[x].toNat] == wanted))) := by
  rw [skipOnKey_next, keyFault, orFault_ite]

/-- The stack rows: the record keeps `sp`, which the condition fixes. -/
theorem orFault_stack (cause : Cause) (n : Fin 17) :
    orFault (if s.sp = n then some (cause, .sp n) else none) s u =
      if s.sp.val = n.val then takeFault (s.pc - 2) cause (.sp s.sp) s else u := by
  by_cases h : s.sp = n
  · subst h
    simp [orFault]
  · have hval : s.sp.val ≠ n.val := fun e => h (Fin.ext e)
    simp [orFault, h, hval]

end

theorem skipIf_runState (s : State) (c : Bool) : (s.skipIf c).runState = s.runState := by
  rw [skipIf_eq]

/-- GetKeyPress does not stop the block in any of its three outcomes (rule R216). -/
theorem exec_getKeyPress_runState (x : Reg) (s : State) :
    ∃ u, exec (.getKeyPress x) s = .next u ∧ u.runState = s.runState := by
  refine ⟨_, exec_getKeyPress_next x s, ?_⟩
  split
  · split
    · rfl
    · rfl
  · rfl

/-- Every operation takes the fault the table names, and with none named leaves the run state (rules R242, R244). -/
theorem exec_orFault (i : Instr) (s : State) :
    ∃ u, exec i s = .next (orFault (faultOf i s) s u) ∧ u.runState = s.runState := by
  cases i with
  | ret => exact ⟨_, (exec_ret_next s).trans (congrArg _ (orFault_stack s _ _ 0).symm), rfl⟩
  | call addr => exact ⟨_, (exec_call_next addr s).trans (congrArg _ (orFault_stack s _ _ 16).symm), rfl⟩
  | drawSprite x y n => exact ⟨_, withRange_orFault s n.toNat _, rfl⟩
  | storeBCD x => exact ⟨_, withRange_orFault s 3 _, rfl⟩
  | regDump x => exact ⟨_, withRange_orFault s (regCount x) _, rfl⟩
  | regLoad x => exact ⟨_, withRange_orFault s (regCount x) _, rfl⟩
  | skipKeyPressed x => exact ⟨_, skipOnKey_orFault s x true, skipIf_runState s _⟩
  | skipKeyNotPressed x => exact ⟨_, skipOnKey_orFault s x false, skipIf_runState s _⟩
  | skipEqVal x val => exact ⟨_, rfl, skipIf_runState s _⟩
  | skipNotEqVal x val => exact ⟨_, rfl, skipIf_runState s _⟩
  | skipEq x y => exact ⟨_, rfl, skipIf_runState s _⟩
  | skipNotEq x y => exact ⟨_, rfl, skipIf_runState s _⟩
  | getKeyPress x => exact exec_getKeyPress_runState x s
  | _ => exact ⟨_, rfl, rfl⟩

/-! ## The fault of an execute step -/

section

variable {s t : State}

theorem faultOf_advance (i : Instr) (s : State) : faultOf i s.advance = faultOf i s := by
  cases i with
  | _ => rfl

theorem executeFault_of_gt (h : s.pc.toNat > 4094) :
    executeFault s = some (.fetchOutOfRange, .pc s.pc) := if_pos h

theorem executeFault_of_unrecognized {w : Halfword} (hw : s.wordAt s.pc = some w) (hd : decode w = .unrecognized) :
    executeFault s = none := by
  obtain ⟨hle, rfl⟩ := wordAt_eq_some hw
  simp only [executeFault, not_lt.mpr hle, if_false, hd]

theorem executeFault_of_operation {w : Halfword} {i : Instr} (hw : s.wordAt s.pc = some w)
    (hd : decode w = .operation i) : executeFault s = faultOf i s := by
  obtain ⟨hle, rfl⟩ := wordAt_eq_some hw
  simp only [executeFault, not_lt.mpr hle, if_false, hd]

/-- A fault taken from the advanced state undoes the advance (rule R105). -/
theorem takeFault_advance (cause : Cause) (info : FaultInfo) (s : State) :
    takeFault (s.advance.pc - 2) cause info s.advance = takeFault s.pc cause info s := by
  rw [advance_pc_sub]
  rfl

/-- An execute step goes on when it meets no fault, else takes the fault it meets at the instruction's address. -/
theorem execute_fault_cases (h : execute s = .next t) :
    (executeFault s = none ∧ t.runState = s.runState) ∨
    ∃ cause info, executeFault s = some (cause, info) ∧ t = takeFault s.pc cause info s := by
  rcases execute_cases h with ⟨hgt, rfl⟩ | ⟨w, hw, ⟨hd, rfl⟩ | ⟨i, hd, he⟩⟩
  · exact .inr ⟨_, _, executeFault_of_gt hgt, rfl⟩
  · exact .inl ⟨executeFault_of_unrecognized hw hd, rfl⟩
  · obtain ⟨u, hu, hrun⟩ := exec_orFault i s.advance
    obtain rfl := Host.Outcome.next.inj (hu.symm.trans he)
    rw [executeFault_of_operation hw hd, ← faultOf_advance]
    cases faultOf i s.advance with
    | none => exact .inl ⟨rfl, hrun⟩
    | some f => exact .inr ⟨f.1, f.2, rfl, takeFault_advance f.1 f.2 s⟩

end

/-- Settles O12: a running block that ends halted has met a fault, and taking it at the instruction's address changes
the run state alone. -/
theorem faultsArePrecise : Obligations.FaultsArePrecise := by
  intro s t r hrun h hhalt
  rcases execute_fault_cases h with ⟨-, hkeep⟩ | ⟨cause, info, hfault, rfl⟩
  · rw [hkeep, hrun] at hhalt
    cases hhalt
  · rw [takeFault_pc_eq] at hhalt ⊢
    obtain rfl := RunState.halted.inj hhalt
    exact ⟨rfl, cause, info, hfault, rfl⟩

/-! ## The tick that runs an instruction -/

theorem countDown_eq (b : Byte) : countDown b = BitVec.ofNat 8 (b.toNat - 1) := by
  unfold countDown
  split
  · subst b
    rfl
  · bv_omega

/-- The timer clock in numbers (rules R250, R252). -/
theorem timerClock_eq_timersAt (now : Nat) (s : State) : timerClock now s = timersAt now s := by
  simp only [timerClock, timersAt, countTimers, countDown_eq, ge_iff_le]

section

variable {s t : State} {now : Nat}

theorem afterInstruction_of_running (h : t.runState = .running) :
    afterInstruction now t = timersAt now { t with nextInstructionDeadline := now + 2 * t.unitsPerMs } := by
  have hclocks : afterInstruction now t = timerClock now (rearmInstruction now t) := by
    simp only [afterInstruction, h]
  rw [hclocks, timerClock_eq_timersAt]
  rfl

theorem afterInstruction_of_halted {r : FaultRecord} (h : t.runState = .halted r) : afterInstruction now t = t := by
  simp only [afterInstruction, h]

/-- A due tick of a running block runs its instruction, then what follows it (rule R250). -/
theorem tick_of_due (hrun : s.runState = .running) (hdue : s.nextInstructionDeadline ≤ now)
    (ht : execute s = .next t) : tick now s = .next (afterInstruction now t) := by
  simp only [tick, hrun, hdue, if_true, ht]

/-- A listed tick is taken off the list and its timestamp noted. -/
theorem step_of_tick {moves : List HostMove} (hm : s.hostMoves = .tick now :: moves) (hle : s.lastNow ≤ now) :
    step s = tick now { s with hostMoves := moves, lastNow := now } := by
  simp only [step, nextMove, hm, hostMove, hostTick, not_lt.mpr hle, if_false]

end

/-- Settles O6: the step is the due tick, whose instruction is the operation decoded at `pc`. -/
theorem stepRunsTheDecodedOperation : Obligations.StepRunsTheDecodedOperation := by
  intro s t now moves i hm hle hrun hdue hpc hd he
  have hexec : execute { s with hostMoves := moves, lastNow := now } = .next t :=
    (execute_of_operation (s := { s with hostMoves := moves, lastNow := now }) (wordAt_of_le _ hpc) hd).trans he
  have hstep : step s = .next (afterInstruction now t) :=
    (step_of_tick hm hle).trans (tick_of_due hrun hdue hexec)
  refine ⟨fun hgoes => ?_, fun hhalts => ?_⟩
  · rw [hstep, afterInstruction_of_running hgoes]
  · cases hr : t.runState with
    | running => exact absurd hr hhalts
    | halted r => rw [hstep, afterInstruction_of_halted hr]

end Sys2Proof.Machine

/-! PROOFS. Control transfer (41_control_flow.md): the return, the jumps, the call, and the skips on registers and
values. -/

namespace Sys2Proof.Machine

/-! ## Return and call by the stack pointer (rules R120, R122) -/

section

variable {s : State}

theorem exec_ret_of_nonempty (h : s.sp ≠ 0) : exec .ret s = .next (s.dropTop.setPc s.topOfStack) := by
  have hval : s.sp.val ≠ 0 := fun e => h (Fin.ext e)
  rw [exec_ret_next, if_neg hval]

theorem exec_ret_of_empty (h : s.sp = 0) : exec .ret s = .next (haltedBy .stackUnderflow (.sp 0) s) := by
  have hval : s.sp.val = 0 := congrArg Fin.val h
  rw [exec_ret_next, if_pos hval, h, takeFault_eq_haltedBy]

theorem exec_call_of_room (addr : Addr) (h : s.sp.val < 16) :
    exec (.call addr) s = .next ((s.push s.pc).setPc (addressOperand addr)) := by
  rw [exec_call_next, if_neg h.ne]

theorem exec_call_of_full (addr : Addr) (h : s.sp = 16) :
    exec (.call addr) s = .next (haltedBy .stackOverflow (.sp 16) s) := by
  have hval : s.sp.val = 16 := congrArg Fin.val h
  rw [exec_call_next, if_pos hval, h, takeFault_eq_haltedBy]

end

/-- Settles O20: the top of the stack is the entry below `sp`, and dropping it moves `sp` alone. -/
theorem returnPopsThePc : Obligations.ReturnPopsThePc := by
  refine fun s => ⟨rfl, fun h => ⟨_, exec_ret_of_nonempty h, ?_, topOfStack_eq s, rfl⟩, exec_ret_of_empty⟩
  have hpos : 0 < s.sp.val := Fin.pos_iff_ne_zero.mpr h
  rw [setPc_sp, dropTop_sp_val]
  omega

/-- Settles O22: with room the push writes the entry `sp` and moves `sp`, and the jump then writes `pc`. -/
theorem callPushesTheAdvancedPc : Obligations.CallPushesTheAdvancedPc := by
  refine fun addr s => ⟨decode_of_encode_eq rfl, fun h => ?_, exec_call_of_full addr⟩
  have hroom : s.sp.val < 16 := Fin.val_lt_last h
  exact ⟨_, exec_call_of_room addr hroom, push_sp_val s s.pc hroom, addressOperand_toNat addr,
    push_stack_get s s.pc hroom, rfl⟩

/-! ## Jumps (rules R121, R123) -/

/-- Of the 12-bit addresses only the last one has no room for a word (rules R102, R121). -/
theorem addr_toNat_gt_iff (addr : Addr) : addr.toNat > 4094 ↔ addr = 0xFFF := by
  constructor
  · intro h
    bv_omega
  · rintro rfl
    decide

/-- Settles O21: the operand is zero-extended, so its value is that of the address. -/
theorem jumpSetsThePc : Obligations.JumpSetsThePc := by
  refine fun addr s => ⟨decode_of_encode_eq rfl, _, rfl, addressOperand_toNat addr, rfl, ?_⟩
  rw [setPc_pc, addressOperand_toNat, addr_toNat_gt_iff]

/-- Settles O23: the 16-bit sum of a 12-bit address and a byte does not wrap. -/
theorem jumpOffsetAddsV0Exactly : Obligations.JumpOffsetAddsV0Exactly :=
  fun addr s => ⟨decode_of_encode_eq rfl, _, rfl, offsetAddress_toNat addr s.V[(0 : Reg)], rfl⟩

/-! ## Skips (rules R124 to R127) -/

section

variable (x y : Reg) {n : Nibble}

theorem decode_family5_unrecognized (h : n ≠ 0) : decode (encodeXYN 0x5 x y n) = .unrecognized := by
  simpa [decode] using h

theorem decode_family9_unrecognized (h : n ≠ 0) : decode (encodeXYN 0x9 x y n) = .unrecognized := by
  simpa [decode] using h

end

section

variable (s : State) (c : Prop) [Decidable c]

theorem skipIf_decide : s.skipIf (decide c) = { s with pc := if c then s.pc + 2 else s.pc } := by
  simp only [skipIf_eq, decide_eq_true_eq]

theorem skipIf_decide_not : s.skipIf (decide ¬c) = { s with pc := if c then s.pc else s.pc + 2 } := by
  simp only [skipIf_eq, decide_eq_true_eq, ite_not]

end

/-- Settles O24: the two equal skips go by their condition, and the two unequal ones by its negation. -/
theorem skipsAddTwoOnTheirCondition : Obligations.SkipsAddTwoOnTheirCondition := by
  refine fun x y val s => ⟨decode_of_encode_eq rfl, decode_of_encode_eq rfl, decode_of_encode_eq rfl,
    decode_of_encode_eq rfl, fun n hn => ?_, ?_, ?_, ?_, ?_⟩
  · exact ⟨decode_family5_unrecognized x y hn, decode_family9_unrecognized x y hn⟩
  · exact congrArg _ (skipIf_decide s (s.V[x] = val))
  · exact congrArg _ (skipIf_decide_not s (s.V[x] = val))
  · exact congrArg _ (skipIf_decide s (s.V[x] = s.V[y]))
  · exact congrArg _ (skipIf_decide_not s (s.V[x] = s.V[y]))

end Sys2Proof.Machine

/-! PROOFS. The register operations (42_alu.md): the results, VF by the order of the statements, and the random byte. -/

namespace Sys2Proof.Machine

section

variable (s : State) {x r : Reg}

/-! ## A result and then VF (rules R146 to R148) -/

section

variable (result flag : Byte)

theorem resultThenFlag_reg_VF : (resultThenFlag x result flag s).reg VF = flag :=
  reg_setReg_same (s.setReg x result) VF flag

theorem resultThenFlag_reg_dest (hx : x ≠ VF) : (resultThenFlag x result flag s).reg x = result := by
  rw [resultThenFlag, reg_setReg_other _ flag hx, reg_setReg_same]

theorem resultThenFlag_reg_other (hr : r ≠ x) (hVF : r ≠ VF) :
    (resultThenFlag x result flag s).reg r = s.reg r := by
  rw [resultThenFlag, reg_setReg_other _ flag hVF, reg_setReg_other s result hr]

end

/-! ## VF and then a shift (rules R149, R150) -/

section

variable (flag : Byte) (shift : Byte → Byte)

theorem flagThenShift_reg_dest (hx : x ≠ VF) : (flagThenShift x flag shift s).reg x = shift (s.reg x) := by
  rw [flagThenShift, reg_setReg_same, reg_setReg_other s flag hx]

theorem flagThenShift_reg_VF (hx : x ≠ VF) : (flagThenShift x flag shift s).reg VF = flag := by
  rw [flagThenShift, reg_setReg_other _ _ hx.symm, reg_setReg_same]

/-- With VF as the operand, the shift moves the flag that was just written. -/
theorem flagThenShift_VF_reg_VF : (flagThenShift VF flag shift s).reg VF = shift flag := by
  rw [flagThenShift, reg_setReg_same, reg_setReg_same]

theorem flagThenShift_reg_other (hr : r ≠ x) (hVF : r ≠ VF) : (flagThenShift x flag shift s).reg r = s.reg r := by
  rw [flagThenShift, reg_setReg_other _ _ hr, reg_setReg_other s flag hVF]

end

end

/-! ## Bytes in numbers -/

section

variable (a b : Byte)

theorem byte_sub_toNat : ((a - b).toNat : Int) = ((a.toNat : Int) - b.toNat) % 256 := by
  rw [BitVec.toNat_sub]
  omega

theorem byte_shiftRight_one_toNat : (a >>> 1).toNat = a.toNat / 2 := by
  rw [BitVec.toNat_ushiftRight, Nat.shiftRight_eq_div_pow, pow_one]

theorem byte_shiftLeft_one_toNat : (a <<< 1).toNat = a.toNat * 2 % 256 := by
  rw [BitVec.toNat_shiftLeft, Nat.shiftLeft_eq, pow_one]

theorem shiftLeftFlag_toNat : (shiftLeftFlag a).toNat = a.toNat / 128 := by
  rw [shiftLeftFlag_eq]
  split <;> bv_omega

/-- The flag of a right shift is one bit, and shifting it right leaves nothing. -/
theorem shiftRightFlag_shiftRight_one : shiftRightFlag a >>> 1 = 0 := by
  apply BitVec.eq_of_toNat_eq
  rw [byte_shiftRight_one_toNat, shiftRightFlag_toNat]
  change a.toNat % 2 / 2 = 0
  omega

/-- The flag of a left shift, shifted left itself, is 2 or 0. -/
theorem shiftLeftFlag_shiftLeft_one : shiftLeftFlag a <<< 1 = if a.toNat ≥ 128 then 2 else 0 := by
  rw [shiftLeftFlag_eq]
  split <;> rfl

end

/-! ## One destination (rules R140 to R145) -/

theorem setReg_reg_getLsbD (s : State) (x : Reg) (v : Byte) (b : Nat) :
    ((s.setReg x v).reg x).getLsbD b = v.getLsbD b := by
  rw [reg_setReg_same]

/-- Settles O25: each operation is one write of its destination. -/
theorem setAddAndCopyWriteOneRegister : Obligations.SetAddAndCopyWriteOneRegister := by
  refine fun x y val s => ⟨decode_of_encode_eq rfl, decode_of_encode_eq rfl, decode_of_encode_eq rfl, ?_, ?_, ?_⟩
  · exact ⟨_, rfl, reg_setReg_same s x val, fun _ => reg_setReg_other s _, rfl⟩
  · have hsum : ((s.setReg x (s.reg x + val)).reg x).toNat = ((s.reg x).toNat + val.toNat) % 256 := by
      rw [reg_setReg_same, BitVec.toNat_add]
    exact ⟨_, rfl, hsum, fun _ => reg_setReg_other s _, rfl⟩
  · exact ⟨_, rfl, reg_setReg_same s x (s.reg y), fun _ => reg_setReg_other s _, rfl⟩

/-- Settles O26: the destination takes the bitwise result, whose bits are those of the operands combined. -/
theorem logicOperationsWriteOneRegister : Obligations.LogicOperationsWriteOneRegister := by
  refine fun x y s => ⟨decode_of_encode_eq rfl, decode_of_encode_eq rfl, decode_of_encode_eq rfl, ?_, ?_, ?_⟩
  · exact ⟨_, rfl, fun b => (setReg_reg_getLsbD s x _ b).trans BitVec.getLsbD_or,
      fun _ => reg_setReg_other s _, rfl⟩
  · exact ⟨_, rfl, fun b => (setReg_reg_getLsbD s x _ b).trans BitVec.getLsbD_and,
      fun _ => reg_setReg_other s _, rfl⟩
  · exact ⟨_, rfl, fun b => (setReg_reg_getLsbD s x _ b).trans BitVec.getLsbD_xor,
      fun _ => reg_setReg_other s _, rfl⟩

/-! ## Sums and differences (rules R146 to R148) -/

theorem resultThenFlag_add_reg_dest_toNat (s : State) {x : Reg} (a b flag : Byte) (hx : x ≠ VF) :
    ((resultThenFlag x (a + b) flag s).reg x).toNat = (a.toNat + b.toNat) % 256 := by
  rw [resultThenFlag_reg_dest s _ flag hx, BitVec.toNat_add]

/-- Settles O27: VF is written after the sum, so the carry stands in it for every destination. -/
theorem addWritesTheSumThenTheCarry : Obligations.AddWritesTheSumThenTheCarry :=
  fun x y s => ⟨decode_of_encode_eq rfl, _, rfl, resultThenFlag_add_reg_dest_toNat s s.V[x] s.V[y] _,
    (resultThenFlag_reg_VF s _ _).trans (carryFlag_eq s.V[x] s.V[y]),
    fun _ => resultThenFlag_reg_other s _ _, rfl⟩

theorem resultThenFlag_sub_reg_dest_toNat (s : State) {x : Reg} (a b flag : Byte) (hx : x ≠ VF) :
    (((resultThenFlag x (a - b) flag s).reg x).toNat : Int) = ((a.toNat : Int) - b.toNat) % 256 := by
  rw [resultThenFlag_reg_dest s _ flag hx, byte_sub_toNat]

/-- Settles O28: VF is written after the difference, and no borrow is an order of the old operands. -/
theorem subtractWritesTheDifferenceThenNoBorrow : Obligations.SubtractWritesTheDifferenceThenNoBorrow :=
  fun x y s => ⟨decode_of_encode_eq rfl, _, rfl, resultThenFlag_sub_reg_dest_toNat s s.V[x] s.V[y] _,
    (resultThenFlag_reg_VF s _ _).trans (noBorrowFlag_eq s.V[x] s.V[y]),
    fun _ => resultThenFlag_reg_other s _ _, rfl⟩

/-- Settles O29, as Subtract with the operands exchanged. -/
theorem differenceWritesTheReverseDifference : Obligations.DifferenceWritesTheReverseDifference :=
  fun x y s => ⟨decode_of_encode_eq rfl, _, rfl, resultThenFlag_sub_reg_dest_toNat s s.V[y] s.V[x] _,
    (resultThenFlag_reg_VF s _ _).trans (noBorrowFlag_eq s.V[y] s.V[x]),
    fun _ => resultThenFlag_reg_other s _ _, rfl⟩

/-! ## Shifts (rules R149, R150) -/

/-- Settles O30: with `x = 15` the bit that was just written to VF is shifted out of it. -/
theorem shiftRightFlagsTheBitShiftedOut : Obligations.ShiftRightFlagsTheBitShiftedOut := by
  refine fun x ignored s => ⟨decode_shiftRight x ignored.toFin, _, rfl, fun hx => ⟨?_, ?_⟩, ?_,
    fun _ => flagThenShift_reg_other s _ _, rfl⟩
  · rw [← reg_eq, flagThenShift_reg_dest s _ _ hx, byte_shiftRight_one_toNat, reg_eq]
  · rw [← reg_eq, flagThenShift_reg_VF s _ _ hx, shiftRightFlag_toNat, reg_eq]
  · rintro rfl
    exact (flagThenShift_VF_reg_VF s _ _).trans (shiftRightFlag_shiftRight_one _)

/-- Settles O31: with `x = 15` the bit that was just written to VF is doubled. -/
theorem shiftLeftFlagsTheBitShiftedOut : Obligations.ShiftLeftFlagsTheBitShiftedOut := by
  refine fun x ignored s => ⟨decode_shiftLeft x ignored.toFin, _, rfl, fun hx => ⟨?_, ?_⟩, ?_,
    fun _ => flagThenShift_reg_other s _ _, rfl⟩
  · rw [← reg_eq, flagThenShift_reg_dest s _ _ hx, byte_shiftLeft_one_toNat, reg_eq]
  · rw [← reg_eq, flagThenShift_reg_VF s _ _ hx, shiftLeftFlag_toNat, reg_eq]
  · rintro rfl
    exact (flagThenShift_VF_reg_VF s _ _).trans (shiftLeftFlag_shiftLeft_one _)

/-! ## The random byte (rule R151) -/

/-- Settles O32: the draw is taken at the count before it goes up. -/
theorem randMasksAFreshDraw : Obligations.RandMasksAFreshDraw :=
  fun x _ s => ⟨decode_of_encode_eq rfl, _, rfl, rfl,
    fun b => (setReg_reg_getLsbD s.countDraw x _ b).trans BitVec.getLsbD_and,
    fun _ => reg_setReg_other s.countDraw _, rfl⟩

end Sys2Proof.Machine

/-! PROOFS. The index register and the transfers at it (43_index_memory.md): a checked access by its range, the bytes a
transfer writes and those it leaves, and the registers a transfer loads. -/

namespace Sys2Proof.Machine

/-! ## The operations on the index register (rules R170 to R172) -/

/-- Settles O33: each operation is one write of `I`, and the three values have exact laws. -/
theorem indexOperationsWriteTheIndex : Obligations.IndexOperationsWriteTheIndex := by
  refine fun x addr s => ⟨decode_of_encode_eq rfl, decode_of_encode_eq rfl, decode_of_encode_eq rfl, ?_, ?_, ?_⟩
  · exact ⟨_, rfl, addressOperand_toNat addr, rfl⟩
  · exact ⟨_, rfl, indexPlus_toNat s.I s.V[x], rfl⟩
  · exact ⟨_, rfl, glyphAddress_toNat s.V[x], rfl⟩

/-! ## A checked access by its range (rule R57) -/

section

variable {len : Nat} {s : State} (k : State → State)

theorem withRange_of_fits (h : s.I.toNat + len ≤ 4096) : withRange len k s = .next (k s) := if_pos h

theorem withRange_of_exceeds (h : s.I.toNat + len > 4096) :
    withRange len k s = .next (haltedBy .memOutOfRange (.access s.I len) s) := by
  rw [withRange_next, if_neg h.not_ge, takeFault_eq_haltedBy]

end

/-! ## Bytes stored (rules R173, R174) -/

section

variable {m : Memory} {base : Nat} (hm : m.wf = true)

include hm

theorem Memory.read_writeBytes_inside {bs : List Byte} (h : base + bs.length ≤ 4096) {j : Nat} (hj : j < bs.length) :
    (m.writeBytes base bs).read (base + j) = bs.getD j 0 := by
  have hin : base ≤ base + j ∧ base + j < base + bs.length := by omega
  rw [Memory.read_writeBytes bs hm h, if_pos hin, Nat.add_sub_cancel_left]

theorem Memory.read_writeBytes_outside {bs : List Byte} (h : base + bs.length ≤ 4096) {a : Nat}
    (ha : a < base ∨ base + bs.length ≤ a) : (m.writeBytes base bs).read a = m.read a := by
  have hout : ¬(base ≤ a ∧ a < base + bs.length) := by omega
  rw [Memory.read_writeBytes bs hm h, if_neg hout]

theorem read_dumpRegs_inside (V : Vector Byte 16) {n : Nat} (h : base + n ≤ 4096) {r : Reg} (hr : r.val < n) :
    (dumpRegs V base n m).read (base + r.val) = V[r] := by
  have hin : base ≤ base + r.val ∧ base + r.val < base + n := by omega
  rw [read_dumpRegs V base n hm h, if_pos hin, Nat.add_sub_cancel_left, getD_reg]

theorem read_dumpRegs_outside (V : Vector Byte 16) {n : Nat} (h : base + n ≤ 4096) {a : Nat}
    (ha : a < base ∨ base + n ≤ a) : (dumpRegs V base n m).read a = m.read a := by
  have hout : ¬(base ≤ a ∧ a < base + n) := by omega
  rw [read_dumpRegs V base n hm h, if_neg hout]

end

/-- The byte that StoreBCD leaves at each of its three addresses is the digit of that position. -/
theorem storeDigits_read_digit {s : State} (hs : s.mem.wf = true) (x : Reg) (hr : s.I.toNat + 3 ≤ 4096) {j : Nat}
    (hj : j < 3) : (storeDigits x s).mem.read (s.I.toNat + j) =
      [hundreds (s.reg x), tens (s.reg x), ones (s.reg x)].getD j 0 :=
  Memory.read_writeBytes_inside hs hr hj

/-- Settles O34: in range the bytes at `I` are the digits by position, and memory alone is written. -/
theorem storeBCDStoresThreeDigits : Obligations.StoreBCDStoresThreeDigits := by
  refine fun x s hs => ⟨decode_of_encode_eq rfl, fun hr => ?_, withRange_of_exceeds (storeDigits x)⟩
  refine ⟨storeDigits x s, withRange_of_fits (storeDigits x) hr, ?_, ?_, ?_, fun a ha => ?_, rfl⟩
  · exact (congrArg _ (storeDigits_read_digit hs x hr (j := 0) (by decide))).trans (hundreds_toNat _)
  · exact (congrArg _ (storeDigits_read_digit hs x hr (j := 1) (by decide))).trans (tens_toNat _)
  · exact (congrArg _ (storeDigits_read_digit hs x hr (j := 2) (by decide))).trans (ones_toNat _)
  · exact Memory.read_writeBytes_outside hs hr ha

/-- Settles O35: a register up to `x` is one of the `x + 1` dumped. -/
theorem regDumpStoresTheFirstRegisters : Obligations.RegDumpStoresTheFirstRegisters := by
  refine fun x s hs => ⟨decode_of_encode_eq rfl, fun hr => ?_, withRange_of_exceeds (dumpFirst x)⟩
  refine ⟨dumpFirst x s, withRange_of_fits (dumpFirst x) hr, fun r hrx => ?_, fun a ha => ?_, rfl⟩
  · exact read_dumpRegs_inside hs s.V hr (Nat.lt_succ_of_le hrx)
  · exact read_dumpRegs_outside hs s.V hr ha

/-! ## Registers loaded (rule R175) -/

theorem loadFirst_V_get (x : Reg) (s : State) (r : Reg) :
    (loadFirst x s).V[r] = if r ≤ x then s.mem.read (s.I.toNat + r.val) else s.V[r] := by
  have hcount : r.val < regCount x ↔ r ≤ x := Nat.lt_succ_iff
  simp only [loadFirst, setRegs_V, get_loadRegs, hcount]

/-- Settles O36: a register up to `x` is one of the `x + 1` loaded. -/
theorem regLoadLoadsTheFirstRegisters : Obligations.RegLoadLoadsTheFirstRegisters := by
  refine fun x s => ⟨decode_of_encode_eq rfl, fun hr => ?_, withRange_of_exceeds (loadFirst x)⟩
  exact ⟨loadFirst x s, withRange_of_fits (loadFirst x) hr, loadFirst_V_get x s, rfl⟩

end Sys2Proof.Machine

/-! PROOFS. The framebuffer and its two operations (44_display.md): a drawing as toggles of distinct pixels, its closed
form, and what the operations do with it. -/

namespace Sys2Proof.Machine

/-! ## Points toggled one after another (rules R192, R193) -/

/-- A pixel on the screen: its column and its row. -/
abbrev Point := Fin 64 × Fin 32

/-- `togglePixel` at a point. -/
def togglePoint (d : Framebuffer × Bool) (p : Point) : Framebuffer × Bool := togglePixel p.1 p.2 d

section

variable (d : Framebuffer × Bool)

theorem pixel_togglePoint (p q : Point) :
    pixel (togglePoint d p).1 q.1 q.2 = (pixel d.1 q.1 q.2 ^^ decide (q = p)) := by
  have hmod : (q.1.val % 64 = p.1.val % 64 ∧ q.2.val % 32 = p.2.val % 32) ↔ q = p := by
    simp only [Nat.mod_eq_of_lt, Fin.is_lt, Prod.ext_iff, Fin.ext_iff]
  rw [togglePoint, pixel_togglePixel, decide_eq_decide.mpr hmod]

/-- Toggling distinct points flips just those. -/
theorem pixel_foldl_togglePoint {ps : List Point} (hps : ps.Nodup) (q : Point) :
    pixel (ps.foldl togglePoint d).1 q.1 q.2 = (pixel d.1 q.1 q.2 ^^ decide (q ∈ ps)) := by
  induction ps generalizing d with
  | nil => simp
  | cons p ps ih =>
    obtain ⟨hp, hps⟩ := List.nodup_cons.mp hps
    rw [List.foldl_cons, ih _ hps, pixel_togglePoint]
    by_cases hq : q = p
    · subst q
      simp [hp]
    · simp [hq]

/-- A pixel that is toggled once is tested as it was before the drawing. -/
theorem collision_foldl_togglePoint {ps : List Point} (hps : ps.Nodup) :
    (ps.foldl togglePoint d).2 = true ↔ d.2 = true ∨ ∃ q ∈ ps, pixel d.1 q.1 q.2 = true := by
  induction ps generalizing d with
  | nil => simp
  | cons p ps ih =>
    obtain ⟨hp, hps⟩ := List.nodup_cons.mp hps
    have hkeep : ∀ q ∈ ps, pixel (togglePoint d p).1 q.1 q.2 = pixel d.1 q.1 q.2 := by
      intro q hq
      have hne : q ≠ p := fun e => hp (e ▸ hq)
      simp [pixel_togglePoint, hne]
    have hrest : (∃ q ∈ ps, pixel (togglePoint d p).1 q.1 q.2 = true) ↔ ∃ q ∈ ps, pixel d.1 q.1 q.2 = true :=
      exists_congr fun q => and_congr_right fun hq => by rw [hkeep q hq]
    rw [List.foldl_cons, ih _ hps, hrest, togglePoint, collision_togglePixel, Bool.or_eq_true, or_assoc,
      List.exists_mem_cons_iff]

end

/-! ## The points of a sprite (rules R190, R192) -/

/-- The point that column `cx` and row `cy` wrap to. -/
def wrapPoint (cx cy : Nat) : Point := (Fin.ofNat 64 cx, Fin.ofNat 32 cy)

/-- The points that one byte of a sprite toggles, in the order of `drawRow`. -/
def rowPoints (x0 cy : Nat) (b : Byte) : List Point :=
  ((List.range 8).filter fun col => b.getLsbD (7 - col)).map fun col => wrapPoint (x0 + col) cy

/-- The points that a sprite toggles, in the order of `drawRows`. -/
def spritePoints (x0 cy : Nat) : List Byte → List Point
  | [] => []
  | b :: bs => rowPoints x0 cy b ++ spritePoints x0 (cy + 1) bs

section

variable (x0 : Nat)

theorem togglePoint_wrapPoint (cx cy : Nat) (d : Framebuffer × Bool) :
    togglePoint d (wrapPoint cx cy) = togglePixel cx cy d := by
  have hrow : rowIndex (cy % 32) = rowIndex cy := Fin.ext (Nat.mod_mod cy 32)
  simp [togglePoint, wrapPoint, togglePixel, hrow, pixel]

theorem drawRow_eq_foldl (cy : Nat) (b : Byte) (d : Framebuffer × Bool) :
    drawRow x0 cy b d = (rowPoints x0 cy b).foldl togglePoint d := by
  simp only [rowPoints, List.foldl_map, List.foldl_filter, togglePoint_wrapPoint]
  rfl

theorem drawRows_eq_foldl (cy : Nat) (bytes : List Byte) (d : Framebuffer × Bool) :
    drawRows x0 cy bytes d = (spritePoints x0 cy bytes).foldl togglePoint d := by
  induction bytes generalizing cy d with
  | nil => rfl
  | cons b bs ih => rw [drawRows, ih, drawRow_eq_foldl, spritePoints, List.foldl_append]

theorem mem_rowPoints (cy : Nat) (b : Byte) (q : Point) :
    q ∈ rowPoints x0 cy b ↔ ∃ col < 8, b.getLsbD (7 - col) = true ∧ wrapPoint (x0 + col) cy = q := by
  simp only [rowPoints, List.mem_map, List.mem_filter, List.mem_range, and_assoc]

theorem wrapPoint_eq_iff (cx cy : Nat) (q : Point) : wrapPoint cx cy = q ↔ q.1.val = cx % 64 ∧ q.2.val = cy % 32 := by
  simp [wrapPoint, Prod.ext_iff, Fin.ext_iff, eq_comm]

/-- A sprite covers what its first byte covers in its row, and what the rest covers from the next row on. -/
theorem spriteCovers_cons (cy : Nat) (b : Byte) (bs : List Byte) (q : Point) :
    spriteCovers x0 cy (b :: bs) q.1 q.2 ↔
      q ∈ rowPoints x0 cy b ∨ spriteCovers x0 (cy + 1) bs q.1 q.2 := by
  simp only [spriteCovers, mem_rowPoints, wrapPoint_eq_iff]
  constructor
  · rintro ⟨_ | row, col, hrow, hcol, hbit, hx, hy⟩
    · exact .inl ⟨col, hcol, hbit, hx, hy⟩
    · exact .inr ⟨row, col, Nat.lt_of_succ_lt_succ hrow, hcol, hbit, hx, by omega⟩
  · rintro (⟨col, hcol, hbit, hx, hy⟩ | ⟨row, col, hrow, hcol, hbit, hx, hy⟩)
    · exact ⟨0, col, Nat.succ_pos _, hcol, hbit, hx, hy⟩
    · exact ⟨row + 1, col, Nat.succ_lt_succ hrow, hcol, hbit, hx, by omega⟩

theorem mem_spritePoints (cy : Nat) (bytes : List Byte) (q : Point) :
    q ∈ spritePoints x0 cy bytes ↔ spriteCovers x0 cy bytes q.1 q.2 := by
  induction bytes generalizing cy with
  | nil => simp [spritePoints, spriteCovers]
  | cons b bs ih => rw [spritePoints, List.mem_append, ih, spriteCovers_cons]

theorem spriteCovers_onScreen {cy px py : Nat} {bytes : List Byte} (h : spriteCovers x0 cy bytes px py) :
    px < 64 ∧ py < 32 := by
  obtain ⟨row, col, -, -, -, rfl, rfl⟩ := h
  exact ⟨Nat.mod_lt _ (by decide), Nat.mod_lt _ (by decide)⟩

/-- Eight columns in a row of 64 do not meet. -/
theorem rowPoints_nodup (cy : Nat) (b : Byte) : (rowPoints x0 cy b).Nodup := by
  refine List.Nodup.map_on ?_ (List.nodup_range.filter _)
  intro c hc c' hc' h
  have hlt : c < 8 := List.mem_range.mp (List.mem_of_mem_filter hc)
  have hlt' : c' < 8 := List.mem_range.mp (List.mem_of_mem_filter hc')
  obtain ⟨hx, -⟩ := (wrapPoint_eq_iff _ _ _).mp h
  simp only [wrapPoint, Fin.val_ofNat] at hx
  omega

/-- A sprite of at most 32 rows toggles no pixel twice. -/
theorem spritePoints_nodup (cy : Nat) (bytes : List Byte) (hlen : bytes.length ≤ 32) :
    (spritePoints x0 cy bytes).Nodup := by
  induction bytes generalizing cy with
  | nil => exact List.nodup_nil
  | cons b bs ih =>
    rw [List.length_cons] at hlen
    refine (rowPoints_nodup x0 cy b).append (ih (cy + 1) (by omega)) ?_
    intro q hfirst hrest
    obtain ⟨col, -, -, hwrap⟩ := (mem_rowPoints x0 cy b q).mp hfirst
    obtain ⟨-, hy⟩ := (wrapPoint_eq_iff _ _ _).mp hwrap
    obtain ⟨row, -, hrow, -, -, -, hy'⟩ := (mem_spritePoints x0 (cy + 1) bs q).mp hrest
    omega

end

/-! ## The closed form of a drawing (rules R192 to R194) -/

section

variable {x0 y0 : Byte} {bytes : List Byte} (f : Framebuffer)

variable (hlen : bytes.length ≤ 15) (hx : x0.toNat < 64) (hy : y0.toNat < 32)

include hlen hx hy

open Classical in
theorem pixel_drawSprite {px py : Nat} (hpx : px < 64) (hpy : py < 32) :
    pixel (drawSprite x0 y0 bytes f).1 px py =
      (pixel f px py ^^ decide (spriteCovers x0.toNat y0.toNat bytes px py)) := by
  have hnodup := spritePoints_nodup x0.toNat y0.toNat bytes (by omega)
  have hpixel := pixel_foldl_togglePoint (f, false) hnodup (⟨px, hpx⟩, ⟨py, hpy⟩)
  rw [drawSprite_onScreen bytes f hx hy, drawRows_eq_foldl, hpixel, decide_eq_decide.mpr (mem_spritePoints _ _ _ _)]

theorem collision_drawSprite : (drawSprite x0 y0 bytes f).2 = true ↔
    ∃ px py, px < 64 ∧ py < 32 ∧ spriteCovers x0.toNat y0.toNat bytes px py ∧ pixel f px py = true := by
  have hnodup := spritePoints_nodup x0.toNat y0.toNat bytes (by omega)
  rw [drawSprite_onScreen bytes f hx hy, drawRows_eq_foldl, collision_foldl_togglePoint (f, false) hnodup]
  simp only [mem_spritePoints, Bool.false_eq_true, false_or]
  constructor
  · rintro ⟨q, hcov, hset⟩
    exact ⟨q.1, q.2, q.1.isLt, q.2.isLt, hcov, hset⟩
  · rintro ⟨px, py, hpx, hpy, hcov, hset⟩
    exact ⟨(⟨px, hpx⟩, ⟨py, hpy⟩), hcov, hset⟩

/-- The two XORs with the covered pixels cancel. -/
theorem drawSprite_drawSprite_frame : (drawSprite x0 y0 bytes (drawSprite x0 y0 bytes f).1).1 = f := by
  refine framebuffer_ext fun px py hpx hpy => ?_
  rw [pixel_drawSprite _ hlen hx hy hpx hpy, pixel_drawSprite _ hlen hx hy hpx hpy, Bool.xor_assoc, Bool.xor_self,
    Bool.xor_false]

open Classical in
theorem pixel_drawSprite_of_covered {px py : Nat} (h : spriteCovers x0.toNat y0.toNat bytes px py) :
    pixel (drawSprite x0 y0 bytes f).1 px py = !pixel f px py := by
  obtain ⟨hpx, hpy⟩ := spriteCovers_onScreen _ h
  rw [pixel_drawSprite f hlen hx hy hpx hpy, decide_eq_true h, Bool.xor_true]

end

/-- Settles O38: at most 15 rows toggle no pixel twice, so each is flipped once and tested as it was before. -/
theorem drawingIsXorWithTheCoveredPixels : Obligations.DrawingIsXorWithTheCoveredPixels :=
  fun _ _ bytes f hlen => ⟨drawSprite_offScreen bytes f, fun hx hy =>
    ⟨fun _ _ => pixel_drawSprite f hlen hx hy, collision_drawSprite f hlen hx hy⟩⟩

/-- Settles O39: after the first drawing a covered pixel is set exactly when it was unset before. -/
theorem drawingTwiceRestoresTheFramebuffer : Obligations.DrawingTwiceRestoresTheFramebuffer := by
  refine fun x0 y0 bytes f hlen hx hy => ⟨drawSprite_drawSprite_frame f hlen hx hy, ?_⟩
  rw [collision_drawSprite _ hlen hx hy]
  refine exists_congr fun px => exists_congr fun py => and_congr_right fun _ => and_congr_right fun _ =>
    and_congr_right fun hcov => ?_
  rw [pixel_drawSprite_of_covered f hlen hx hy hcov, Bool.not_eq_true']

/-! ## The two operations (rules R195, R196) -/

theorem collisionFlag_eq_ite {c : Bool} {p : Prop} {_ : Decidable p} (h : c = true ↔ p) :
    collisionFlag c = if p then 1 else 0 :=
  if_congr h rfl rfl

section

variable (x y : Reg) (n : Nat) (s : State)

theorem drawAtIndex_FB : (drawAtIndex x y n s).FB =
    (drawSprite s.V[x] s.V[y] (s.mem.readBytes s.I.toNat n) s.FB).1 := rfl

theorem drawAtIndex_VF : (drawAtIndex x y n s).V[(15 : Reg)] =
    collisionFlag (drawSprite s.V[x] s.V[y] (s.mem.readBytes s.I.toNat n) s.FB).2 :=
  reg_setReg_same (s.setFrame _) VF _

theorem Memory.readBytes_length (m : Memory) (a : Nat) : (m.readBytes a n).length = n := by
  rw [Memory.readBytes_eq, List.length_map, List.length_range]

end

/-- Settles O40: the range check decides between the drawing and the fault, and the drawing's closed form gives the
framebuffer and VF. -/
theorem drawSpriteXorsAndReportsCollision : Obligations.DrawSpriteXorsAndReportsCollision := by
  refine fun x y n s => ⟨decode_of_encode_eq rfl, fun hr => ?_, withRange_of_exceeds (drawAtIndex x y n.toNat)⟩
  have hlen : (s.mem.readBytes s.I.toNat n.toNat).length ≤ 15 := by
    rw [Memory.readBytes_length]
    exact Nat.le_of_lt_succ n.isLt
  refine ⟨drawAtIndex x y n.toNat s, _, withRange_of_fits (drawAtIndex x y n.toNat) hr,
    Memory.readBytes_eq s.mem n.toNat s.I.toNat, fun hoff => ?_, fun hx hy => ⟨fun px py hpx hpy => ?_, ?_⟩,
    fun r hr => reg_setReg_other (s.setFrame _) _ hr, rfl⟩
  · rw [drawAtIndex_FB, drawAtIndex_VF, drawSprite_offScreen _ _ hoff]
    exact ⟨rfl, rfl⟩
  · exact pixel_drawSprite s.FB hlen hx hy hpx hpy
  · rw [drawAtIndex_VF]
    exact collisionFlag_eq_ite (collision_drawSprite s.FB hlen hx hy)

/-- Settles O37: the operation replaces the framebuffer by the clear one. -/
theorem clearDisplayUnsetsEveryPixel : Obligations.ClearDisplayUnsetsEveryPixel :=
  fun _ => ⟨decode_of_encode_eq rfl, _, rfl, pixel_clearFrame, rfl⟩

end Sys2Proof.Machine

/-! PROOFS. Keys and timers (45_keys_timers.md): the key events, the skips on a key's level, GetKeyPress from its first
execution to its end, and the timer operations. -/

namespace Sys2Proof.Machine

/-! ## Key events (rules R210, R264) -/

section

variable (k : Key) (p : Bool) (s : State)

theorem setPressed_KEY_same : (setPressed k p s).KEY[k] = p :=
  Vector.getElem_set_self k.isLt

theorem setPressed_KEY_other {j : Key} (h : j ≠ k) : (setPressed k p s).KEY[j] = s.KEY[j] :=
  Vector.getElem_set_ne k.isLt j.isLt (Fin.val_ne_of_ne h.symm)

theorem setPressed_kbLastReleased : (setPressed k p s).kbLastReleased =
    if s.kbTracking = true ∧ s.KEY[k] = true ∧ p = false then some k else s.kbLastReleased := by
  simp only [setPressed, State.isPressed, Bool.and_eq_true, Bool.not_eq_true', and_assoc]

theorem step_of_keyEvent {moves : List HostMove} (h : s.hostMoves = .keyEvent k p :: moves) :
    step s = .next (setPressed k p { s with hostMoves := moves }) := by
  simp only [step, nextMove, h, hostMove]

end

/-- Settles O16: a key event is one write of a level and of the last released key, and the step makes it with the event
taken off the list. -/
theorem keyEventRecordsAReleaseWhileArmed : Obligations.KeyEventRecordsAReleaseWhileArmed := by
  refine fun k p s => ⟨_, rfl, setPressed_KEY_same k p s, fun j => setPressed_KEY_other k p s,
    setPressed_kbLastReleased k p s, rfl, fun moves => ?_⟩
  exact step_of_keyEvent k p { s with hostMoves := .keyEvent k p :: moves } rfl

/-! ## Skips on the level of a key (rules R214, R215) -/

section

variable {x : Reg} {s : State} (wanted : Bool)

theorem skipOnKey_of_key {k : Key} (h : s.V[x].toNat = k.val) :
    skipOnKey x wanted s = .next (s.skipIf (s.KEY[k] == wanted)) := by
  have hk : Fin.ofNat 16 s.V[x].toNat = k := by rw [h, Fin.ofNat_val_eq_self]
  have hlt : ¬ s.V[x].toNat ≥ 16 := by omega
  simp only [skipOnKey_next, if_neg hlt, hk]

theorem skipOnKey_of_noKey (h : s.V[x].toNat ≥ 16) :
    skipOnKey x wanted s = .next (haltedBy .keyOutOfRange (.key s.V[x]) s) := by
  rw [skipOnKey_next, if_pos h, takeFault_eq_haltedBy]

end

/-- Settles O41: both skips read the level of the key that the register names, and fault when it names none. -/
theorem keySkipsTestTheKeyLevel : Obligations.KeySkipsTestTheKeyLevel := by
  refine fun x s => ⟨decode_of_encode_eq rfl, decode_of_encode_eq rfl, fun k hk => ⟨?_, ?_⟩,
    fun hx => ⟨skipOnKey_of_noKey true hx, skipOnKey_of_noKey false hx⟩⟩
  · refine (skipOnKey_of_key true hk).trans ?_
    rw [beq_true, skipIf_eq]
  · refine (skipOnKey_of_key false hk).trans ?_
    cases s.KEY[k] with
    | false => rfl
    | true => rfl

/-! ## One execution of GetKeyPress (rule R216) -/

section

variable (x : Reg) {s : State}

theorem exec_getKeyPress_of_unarmed (h : s.kbTracking = false) :
    exec (.getKeyPress x) s = .next s.arm.repeatInstruction := by
  simp [exec_getKeyPress_next, h]

theorem exec_getKeyPress_of_waiting (h : s.kbTracking = true) (hnone : s.kbLastReleased = none) :
    exec (.getKeyPress x) s = .next s.repeatInstruction := by
  simp [exec_getKeyPress_next, h, hnone]

theorem exec_getKeyPress_of_released {k : Key} (h : s.kbTracking = true) (hk : s.kbLastReleased = some k) :
    exec (.getKeyPress x) s = .next (s.disarm.setReg x (BitVec.ofNat 8 k.val)) := by
  simp [exec_getKeyPress_next, h, hk]

end

/-- The byte that names a key, written to a register, reads as the number of the key. -/
theorem setReg_key_toNat (s : State) (x : Reg) (k : Key) :
    ((s.setReg x (BitVec.ofNat 8 k.val)).reg x).toNat = k.val := by
  rw [reg_setReg_same, BitVec.toNat_ofNat]
  omega

/-- Settles O42, by the three cases of the tracker. -/
theorem getKeyPressArmsRepeatsAndCompletes : Obligations.GetKeyPressArmsRepeatsAndCompletes :=
  fun x s => ⟨decode_of_encode_eq rfl, exec_getKeyPress_of_unarmed x, exec_getKeyPress_of_waiting x,
    fun k h hk => ⟨_, exec_getKeyPress_of_released x h hk, setReg_key_toNat s.disarm x k,
      fun _ => reg_setReg_other s.disarm _, rfl⟩⟩

/-! ## GetKeyPress from its first execution to its end (rules R216, R291) -/

theorem advance_repeatInstruction (s : State) : s.advance.repeatInstruction = s := by
  rw [State.repeatInstruction, advance_pc_sub]
  rfl

/-- While the tracker is armed, a press and then a release of a key record it, whatever the key's level was. -/
theorem press_release_kbLastReleased (k : Key) {s : State} (h : s.kbTracking = true) :
    (setPressed k false (setPressed k true s)).kbLastReleased = some k := by
  rw [setPressed_kbLastReleased, if_pos ⟨h, setPressed_KEY_same k true s, rfl⟩]

section

variable {x : Reg} {s : State} {w : Halfword}
variable (hw : s.wordAt s.pc = some w) (hd : decode w = .operation (.getKeyPress x))

include hw hd

/-- The first execution arms, and goes back to the instruction. -/
theorem execute_getKeyPress_of_unarmed (h : s.kbTracking = false) : execute s = .next s.arm := by
  have harms : exec (.getKeyPress x) s.advance = .next s.advance.arm.repeatInstruction :=
    exec_getKeyPress_of_unarmed x h
  have hback : s.advance.arm.repeatInstruction = s.arm := advance_repeatInstruction s.arm
  rw [execute_of_operation hw hd, harms, hback]

/-- An execution that waits for a release changes nothing. -/
theorem execute_getKeyPress_of_waiting (h : s.kbTracking = true) (hnone : s.kbLastReleased = none) :
    execute s = .next s := by
  have hwaits : exec (.getKeyPress x) s.advance = .next s.advance.repeatInstruction :=
    exec_getKeyPress_of_waiting x h hnone
  rw [execute_of_operation hw hd, hwaits, advance_repeatInstruction]

/-- An execution after a release goes on with the key. -/
theorem execute_getKeyPress_of_released {k : Key} (h : s.kbTracking = true) (hk : s.kbLastReleased = some k) :
    execute s = .next (s.advance.disarm.setReg x (BitVec.ofNat 8 k.val)) :=
  (execute_of_operation hw hd).trans (exec_getKeyPress_of_released x (s := s.advance) h hk)

end

/-- Settles O43: arming and the key events leave `pc` and the memory, so each execution meets the same word, with the
tracker in the next of its three cases. -/
theorem getKeyPressReturnsTheKeyReleasedAfterArming : Obligations.GetKeyPressReturnsTheKeyReleasedAfterArming := by
  intro x k s hunarmed hpc hd
  have hw := wordAt_of_le s hpc
  have hrecorded := press_release_kbLastReleased k (s := s.arm) rfl
  exact ⟨s.arm, _, execute_getKeyPress_of_unarmed hw hd hunarmed, rfl, rfl,
    execute_getKeyPress_of_waiting (s := s.arm) hw hd rfl rfl,
    execute_getKeyPress_of_released (s := setPressed k false (setPressed k true s.arm)) hw hd rfl hrecorded,
    rfl, setReg_key_toNat _ x k, rfl, rfl⟩

/-! ## The timer operations (rules R218 to R220) -/

theorem soundOut_setSound (s : State) (b : Byte) : soundOut (s.setSound b) = true ↔ b.toNat > 0 :=
  decide_eq_true_iff

/-- Settles O44: each operation is one write, of a register or of a timer. -/
theorem timerOperationsMoveTheTimers : Obligations.TimerOperationsMoveTheTimers := by
  refine fun x s => ⟨decode_of_encode_eq rfl, decode_of_encode_eq rfl, decode_of_encode_eq rfl, ?_, rfl, ?_⟩
  · exact ⟨_, rfl, reg_setReg_same s x s.DT, fun _ => reg_setReg_other s _, rfl⟩
  · exact ⟨_, rfl, soundOut_setSound s s.V[x], rfl⟩

end Sys2Proof.Machine

/-! PROOFS. Exceptions and the clocks (60_exceptions.md): what always answers a next state, the fault table, Halted, the
scheduler with its strobe view, and the ports. -/

namespace Sys2Proof.Machine

/-! ## What answers a next state (rules R241, R255, R269) -/

/-- Settles O11: an effect of the operation is its next state. -/
theorem everyOperationAnswersANextState : Obligations.EveryOperationAnswersANextState := by
  intro i s
  obtain ⟨t, ht, -⟩ := exec_next i s
  exact ⟨t, ht⟩

theorem execute_next (s : State) : ∃ t, execute s = .next t := by
  by_cases hpc : s.pc.toNat ≤ 4094
  · have hw := wordAt_of_le s hpc
    cases hd : decode (halfwordOfBytes (s.mem.read s.pc.toNat) (s.mem.read (s.pc.toNat + 1))) with
    | unrecognized => exact ⟨_, execute_of_unrecognized hw hd⟩
    | operation i =>
      rw [execute_of_operation hw hd]
      exact everyOperationAnswersANextState i s.advance
  · exact ⟨_, execute_of_fetchFault (not_le.mp hpc)⟩

section

variable {now : Nat} {s : State}

/-- A halted block ignores a tick (rule R248). -/
theorem tick_of_halted {r : FaultRecord} (h : s.runState = .halted r) : tick now s = .next s := by
  simp only [tick, h]

/-- A tick before the instruction deadline is a turn of the timer clock alone (rule R250). -/
theorem tick_of_notDue (hrun : s.runState = .running) (h : now < s.nextInstructionDeadline) :
    tick now s = .next (timersAt now s) := by
  simp only [tick, hrun, not_le.mpr h, if_false, timerClock_eq_timersAt]

end

theorem tick_next (now : Nat) (s : State) : ∃ t, tick now s = .next t := by
  cases hrun : s.runState with
  | halted r => exact ⟨s, tick_of_halted hrun⟩
  | running =>
    by_cases hdue : s.nextInstructionDeadline ≤ now
    · obtain ⟨t, ht⟩ := execute_next s
      exact ⟨_, tick_of_due hrun hdue ht⟩
    · exact ⟨_, tick_of_notDue hrun (not_le.mp hdue)⟩

/-- Settles O10, by the next move: a tick stops on its timestamp alone, a reset on its image, a key event never. -/
theorem stepStopsOnlyOnTheHostsErrors : Obligations.StepStopsOnlyOnTheHostsErrors := by
  intro s
  rw [step, nextMove_state]
  cases (nextMove s).1 with
  | tick now =>
    by_cases hback : now < s.lastNow
    · exact .inr (.inl ⟨if_pos hback, now, rfl, hback⟩)
    · obtain ⟨t, ht⟩ := tick_next now { s with hostMoves := s.hostMoves.tail, lastNow := now }
      exact .inl ⟨t, (if_neg hback).trans ht⟩
  | keyEvent k p => exact .inl ⟨_, rfl⟩
  | reset image t0 =>
    by_cases hfits : image.length ≤ 3584
    · exact .inl ⟨_, load_fits hfits t0 _⟩
    · have hlong := not_le.mp hfits
      exact .inr (.inr ⟨load_tooLong hlong t0 _, image, t0, rfl, hlong⟩)

/-! ## The fault table (rule R242) -/

/-- Settles O13: an execute step meets no fault and keeps the run state, or takes the fault it meets at its own
address. -/
theorem faultsAreExactlyTheTable : Obligations.FaultsAreExactlyTheTable := by
  refine ⟨fun s hrun => ?_, rfl⟩
  obtain ⟨t, ht⟩ := execute_next s
  refine ⟨t, ht, ?_⟩
  rcases execute_fault_cases ht with ⟨hnone, hkeep⟩ | ⟨cause, info, hfault, rfl⟩
  · rw [hnone, hkeep, hrun]
  · rw [hfault, takeFault_runState, wordAt_pc]

/-! ## Halted (rules R247, R248) -/

/-- Settles O14: a halted block ignores a tick, and a key event writes KeyState alone. -/
theorem onlyResetLeavesHalted : Obligations.OnlyResetLeavesHalted := by
  refine ⟨fun s t r hhalt hreset h => ?_, fun s image t0 moves hm hfits => ?_⟩
  · rw [step, nextMove_state] at h
    rcases hostMove_cases h with ⟨now, -, -, ht⟩ | ⟨k, p, -, rfl⟩ | ⟨image, t0, hm, -⟩
    · rw [tick_of_halted (s := { s with hostMoves := s.hostMoves.tail, lastNow := now }) hhalt] at ht
      obtain rfl := Host.Outcome.next.inj ht
      rfl
    · rfl
    · exact absurd hm (hreset image t0)
  · exact ⟨_, (step_resetMove hm).trans (load_fits hfits t0 _), rfl, rfl⟩

/-! ## The two clocks (rules R250, R253, R263) -/

theorem dueNow_eq_max (s : State) : dueNow s = max s.lastNow s.nextInstructionDeadline :=
  rfl

/-- A step with no listed move is a tick at the time the host chooses. -/
theorem step_of_noMove {s : State} (hm : s.hostMoves = []) :
    step s = tick (dueNow s) { s with lastNow := dueNow s } := by
  simp only [step, nextMove, hm, hostMove, hostTick, not_lt.mpr (lastNow_le_dueNow s), if_false]

/-- Settles O7: the timestamp of a host with no listed move is that maximum, and the listed tick is taken off. -/
theorem stepWithNoListedMoveTicksWhenDue : Obligations.StepWithNoListedMoveTicksWhenDue := by
  intro s hm
  have hle := lastNow_le_dueNow s
  have hlisted := step_of_tick (s := { s with hostMoves := [.tick (dueNow s)] }) rfl hle
  rw [step_of_noMove hm, ← dueNow_eq_max, hlisted, ← hm]

/-- Settles O8, by the run state, the instruction deadline, and the run state after the execute step. -/
theorem tickFollowsTheTwoClocks : Obligations.TickFollowsTheTwoClocks := by
  refine fun now s => ⟨fun r hr => tick_of_halted hr, tick_of_notDue, fun hrun hdue t ht => ?_⟩
  rw [tick_of_due hrun hdue ht]
  exact ⟨fun r hr => by rw [afterInstruction_of_halted hr], fun hgoes => by rw [afterInstruction_of_running hgoes]⟩

/-- A timer after its turn, in numbers. -/
theorem byte_pred_toNat (b : Byte) : (BitVec.ofNat 8 (b.toNat - 1)).toNat = b.toNat - 1 := by
  rw [BitVec.toNat_ofNat]
  omega

/-- After an instruction that goes on, a due timer clock counts down what the instruction left in the timers. -/
theorem afterInstruction_of_timerDue {now : Nat} {t : State} (hgoes : t.runState = .running)
    (htimer : t.nextTimerDeadline ≤ now) :
    (afterInstruction now t).DT.toNat = t.DT.toNat - 1 ∧ (afterInstruction now t).ST.toNat = t.ST.toNat - 1 ∧
    (afterInstruction now t).V = t.V := by
  rw [afterInstruction_of_running hgoes, timersAt, if_pos htimer]
  exact ⟨byte_pred_toNat t.DT, byte_pred_toNat t.ST, rfl⟩

/-- Settles O19: the timer clock meets the timers as the operation left them, and the registers it leaves. -/
theorem aTimerSetInADueTickIsCountedDownAtOnce : Obligations.ATimerSetInADueTickIsCountedDownAtOnce := by
  intro now x i s hrun hdue htimer hpc hd
  have hexec : execute s = exec i s.advance := execute_of_operation (wordAt_of_le s hpc) hd
  refine ⟨?_, ?_, ?_⟩
  · rintro rfl
    obtain ⟨hDT, hST, -⟩ := afterInstruction_of_timerDue (t := s.advance.setDelay s.V[x]) hrun htimer
    exact ⟨_, tick_of_due hrun hdue hexec, hDT, hST⟩
  · rintro rfl
    obtain ⟨hDT, hST, -⟩ := afterInstruction_of_timerDue (t := s.advance.setSound s.V[x]) hrun htimer
    exact ⟨_, tick_of_due hrun hdue hexec, hST, hDT⟩
  · rintro rfl
    obtain ⟨hDT, -, hV⟩ := afterInstruction_of_timerDue (t := s.advance.setReg x s.DT) hrun htimer
    have hread : (afterInstruction now (s.advance.setReg x s.DT)).V[x] = s.DT := by
      rw [hV]
      exact reg_setReg_same s.advance x s.DT
    exact ⟨_, tick_of_due hrun hdue hexec, hread, hDT⟩

/-! ## No instruction reads or writes a deadline (rule R256) -/

/-- The state with other deadlines. -/
def State.setDeadlines (d e : Nat) (s : State) : State :=
  { s with nextInstructionDeadline := d, nextTimerDeadline := e }

/-- An outcome with other deadlines in its next state. -/
def atDeadlines (d e : Nat) : Host.Outcome State Fault Refusal → Host.Outcome State Fault Refusal
  | .next t => .next (t.setDeadlines d e)
  | .fault f => .fault f
  | .refused r => .refused r

section

variable (d e : Nat)

theorem setDeadlines_kbLastReleased (s : State) : (s.setDeadlines d e).kbLastReleased = s.kbLastReleased :=
  rfl

theorem skipIf_setDeadlines (s : State) (c : Bool) :
    (s.setDeadlines d e).skipIf c = (s.skipIf c).setDeadlines d e := by
  cases c with
  | false => rfl
  | true => rfl

/-- Two outcomes that choose by the same condition between states that differ in the deadlines alone. -/
theorem atDeadlines_of_ite {o o' : Host.Outcome State Fault Refusal} {c : Prop} [Decidable c] {u v u' v' : State}
    (ho : o = .next (if c then u else v)) (ho' : o' = .next (if c then u' else v'))
    (hu : u' = u.setDeadlines d e) (hv : v' = v.setDeadlines d e) : o' = atDeadlines d e o := by
  rw [ho', hu, hv, ho, atDeadlines, apply_ite (State.setDeadlines d e)]

/-- Every operation does the same at any deadlines, and leaves them. -/
theorem exec_setDeadlines (i : Instr) (s : State) :
    exec i (s.setDeadlines d e) = atDeadlines d e (exec i s) := by
  cases i with
  | ret => exact atDeadlines_of_ite d e (exec_ret_next s) (exec_ret_next _) rfl rfl
  | call addr => exact atDeadlines_of_ite d e (exec_call_next addr s) (exec_call_next addr _) rfl rfl
  | drawSprite x y n =>
    exact atDeadlines_of_ite d e (exec_drawSprite_next x y n s) (exec_drawSprite_next x y n _) rfl rfl
  | storeBCD x => exact atDeadlines_of_ite d e (exec_storeBCD_next x s) (exec_storeBCD_next x _) rfl rfl
  | regDump x => exact atDeadlines_of_ite d e (exec_regDump_next x s) (exec_regDump_next x _) rfl rfl
  | regLoad x => exact atDeadlines_of_ite d e (exec_regLoad_next x s) (exec_regLoad_next x _) rfl rfl
  | skipKeyPressed x =>
    exact atDeadlines_of_ite d e (exec_skipKeyPressed_next x s) (exec_skipKeyPressed_next x _) rfl
      (skipIf_setDeadlines d e s _)
  | skipKeyNotPressed x =>
    exact atDeadlines_of_ite d e (exec_skipKeyNotPressed_next x s) (exec_skipKeyNotPressed_next x _) rfl
      (skipIf_setDeadlines d e s _)
  | getKeyPress x =>
    refine atDeadlines_of_ite d e (exec_getKeyPress_next x s) (exec_getKeyPress_next x _) ?_ rfl
    rw [setDeadlines_kbLastReleased]
    cases s.kbLastReleased with
    | none => rfl
    | some k => rfl
  | skipEqVal x val | skipNotEqVal x val | skipEq x y | skipNotEq x y =>
    exact congrArg Host.Outcome.next (skipIf_setDeadlines d e s _)
  | _ => rfl

theorem execute_setDeadlines (s : State) :
    execute (s.setDeadlines d e) = atDeadlines d e (execute s) := by
  obtain ⟨t, ht⟩ := execute_next s
  rw [ht]
  rcases execute_cases ht with ⟨hgt, rfl⟩ | ⟨w, hw, ⟨hd, rfl⟩ | ⟨i, hd, he⟩⟩
  · exact execute_of_fetchFault (s := s.setDeadlines d e) hgt
  · exact execute_of_unrecognized (s := s.setDeadlines d e) hw hd
  · rw [execute_of_operation (s := s.setDeadlines d e) hw hd, ← he]
    exact exec_setDeadlines d e i s.advance

end

/-! ## The strobe view (rule R256) -/

section

variable {s t u : State}

theorem SameButDeadlines.refl (s : State) : SameButDeadlines s s :=
  rfl

/-- Of two states that agree but for the deadlines, one is the other with deadlines set. -/
theorem SameButDeadlines.eq_setDeadlines (h : SameButDeadlines u s) : ∃ d e, s = u.setDeadlines d e :=
  ⟨_, _, h⟩

theorem SameButDeadlines.runState_eq (h : SameButDeadlines u s) : u.runState = s.runState :=
  (congrArg State.runState h).symm

theorem SameButDeadlines.setPressed (h : SameButDeadlines u s) (k : Key) (p : Bool) :
    SameButDeadlines (setPressed k p u) (setPressed k p s) :=
  congrArg (Machine.setPressed k p) h

/-- Re-arming the instruction clock is out of the strobe view's sight. -/
theorem SameButDeadlines.rearmInstruction (h : SameButDeadlines u s) (now : Nat) :
    SameButDeadlines u (rearmInstruction now s) := by
  obtain ⟨d, e, rfl⟩ := h.eq_setDeadlines
  rfl

/-- A turn of the timer clock is nothing or a count of the timers to the strobe view. -/
theorem SameButDeadlines.timerClock (h : SameButDeadlines u s) (now : Nat) :
    SameButDeadlines u (timerClock now s) ∨ SameButDeadlines (countTimers u) (timerClock now s) := by
  obtain ⟨d, e, rfl⟩ := h.eq_setDeadlines
  unfold Machine.timerClock
  split
  · exact .inr rfl
  · exact .inl rfl

/-- An execute step takes states that agree but for the deadlines to such states. -/
theorem SameButDeadlines.execute (h : SameButDeadlines u s) (hs : execute s = .next t) :
    ∃ v, execute u = .next v ∧ SameButDeadlines v t := by
  obtain ⟨v, hv⟩ := execute_next u
  obtain ⟨d, e, rfl⟩ := h.eq_setDeadlines
  rw [execute_setDeadlines, hv] at hs
  obtain rfl := Host.Outcome.next.inj hs
  exact ⟨v, hv, rfl⟩

/-- Every tick is one of the four strobe ticks. -/
theorem SameButDeadlines.tick {now : Nat} (h : SameButDeadlines u s) (hs : tick now s = .next t) :
    ∃ kind v, strobeTick kind u = .next v ∧ SameButDeadlines v t := by
  have hstate := h.runState_eq
  rcases tick_cases hs with ⟨r, hr, rfl⟩ | ⟨hrun, -, w, hw, rfl⟩ | ⟨hrun, -, rfl⟩
  · exact ⟨.idle, u, by simp only [strobeTick, hstate, hr], h⟩
  · obtain ⟨v, hv, hvw⟩ := h.execute hw
    have hinstruction : strobeTick .instruction u = .next v := by simp only [strobeTick, hstate, hrun, hv]
    cases hr : w.runState with
    | halted r =>
      rw [afterInstruction_of_halted hr]
      exact ⟨.instruction, v, hinstruction, hvw⟩
    | running =>
      rw [afterInstruction, hr]
      rcases (hvw.rearmInstruction now).timerClock now with hidle | hcount
      · exact ⟨.instruction, v, hinstruction, hidle⟩
      · exact ⟨.instructionThenTimer, _, by simp only [strobeTick, hstate, hrun, hv, hvw.runState_eq, hr], hcount⟩
  · rcases h.timerClock now with hidle | hcount
    · exact ⟨.idle, u, by simp only [strobeTick, hstate, hrun], hidle⟩
    · exact ⟨.timer, _, by simp only [strobeTick, hstate, hrun], hcount⟩

/-- A timed run from `s` is a strobe run from any state that agrees with `s` but for the deadlines. -/
theorem SameButDeadlines.timedRun {moves : List (Nat ⊕ Key × Bool)} (h : SameButDeadlines u s)
    (hs : timedRun moves s = .next t) :
    ∃ (strobes : List (StrobeKind ⊕ Key × Bool)) (v : State),
      strobes.map Sum.getRight? = moves.map Sum.getRight? ∧ strobeRun strobes u = .next v ∧ SameButDeadlines v t := by
  induction moves generalizing s u with
  | nil =>
    obtain rfl := Host.Outcome.next.inj hs
    exact ⟨[], u, rfl, rfl, h⟩
  | cons move moves ih =>
    cases move with
    | inl now =>
      obtain ⟨s₁, hs₁⟩ := tick_next now s
      simp only [Machine.timedRun, hs₁] at hs
      obtain ⟨kind, u₁, hu₁, h₁⟩ := h.tick hs₁
      obtain ⟨strobes, v, hevents, hrun, hv⟩ := ih h₁ hs
      exact ⟨.inl kind :: strobes, v, congrArg (none :: ·) hevents, by simp only [strobeRun, hu₁, hrun], hv⟩
    | inr event =>
      obtain ⟨strobes, v, hevents, hrun, hv⟩ := ih (h.setPressed event.1 event.2) hs
      exact ⟨.inr event :: strobes, v, congrArg (some event :: ·) hevents, hrun, hv⟩

end

/-- Settles O9: every tick of the run is a strobe tick, up to the deadlines. -/
theorem strobeViewAdmitsEveryTimedRun : Obligations.StrobeViewAdmitsEveryTimedRun :=
  fun _ s _ hrun => (SameButDeadlines.refl s).timedRun hrun

/-! ## The ports (rules R265, R266) -/

/-- Settles O17: the row-major index splits into its column and its row. -/
theorem portsReadThePixelAndTheSound : Obligations.PortsReadThePixelAndTheSound := by
  refine fun s => ⟨fun px py _ hpx => ?_, ?_⟩
  · have hcol : (px + 64 * py) % 64 = px := by omega
    have hrow : (px + 64 * py) / 64 = py := by omega
    rw [pixelPort, hcol, hrow]
  · rw [soundOut, decide_eq_true_iff]
    bv_omega

end Sys2Proof.Machine

/-! PROOFS. Reset (70_reset_and_hazards.md): the value of every element after the load of an image. -/

namespace Sys2Proof.Machine

/-! ## The glyphs at reset (rules R281, R283) -/

/-- The memory between the two loads of a reset: the glyphs at 0 and nothing else written. -/
def glyphMemory (g : Vector Byte 80) : Memory := Memory.writeBytes [] 0 g.toList

section

variable (g : Vector Byte 80)

theorem glyphs_fit : 0 + g.toList.length ≤ 4096 := by simp

theorem glyphMemory_wf : (glyphMemory g).wf = true := Memory.wf_writeBytes g.toList rfl (glyphs_fit g)

theorem glyphMemory_read_glyph (a : Fin 80) : (glyphMemory g).read a.val = g[a] := by
  have ha : a.val < g.toList.length := by simp
  have hread := Memory.read_writeBytes_inside (m := []) rfl (glyphs_fit g) ha
  rw [Nat.zero_add] at hread
  rw [glyphMemory, hread, List.getD_eq_getElem _ _ ha, Vector.getElem_toList, Fin.getElem_fin]

theorem glyphMemory_read_of_ge {a : Nat} (ha : 80 ≤ a) : (glyphMemory g).read a = 0 := by
  have hout : 0 + g.toList.length ≤ a := by simpa using ha
  calc (glyphMemory g).read a
    _ = Memory.read [] a := Memory.read_writeBytes_outside rfl (glyphs_fit g) (.inr hout)
    _ = 0 := resetByte_of_ge ha

end

/-! ## The memory at reset (rules R281, R284) -/

section

variable {image : List Byte} (hfits : image.length ≤ 3584) (t0 : Nat) (s : State)

theorem resetWith_mem : (resetWith image t0 s).mem = (glyphMemory s.glyphs).writeBytes 512 image :=
  rfl

include hfits

theorem resetWith_read_image {a : Nat} (ha : a < image.length) :
    (resetWith image t0 s).mem.read (512 + a) = image.getD a 0 := by
  rw [resetWith_mem]
  exact Memory.read_writeBytes_inside (glyphMemory_wf s.glyphs) (by omega) ha

theorem resetWith_read_outside_image {a : Nat} (ha : a < 512 ∨ 512 + image.length ≤ a) :
    (resetWith image t0 s).mem.read a = (glyphMemory s.glyphs).read a := by
  rw [resetWith_mem]
  exact Memory.read_writeBytes_outside (glyphMemory_wf s.glyphs) (by omega) ha

theorem resetWith_read_glyph (a : Fin 80) : (resetWith image t0 s).mem.read a.val = s.glyphs[a] := by
  rw [resetWith_read_outside_image hfits t0 s (.inl (by omega)), glyphMemory_read_glyph]

theorem resetWith_read_unloaded {a : Nat} (hglyphs : 80 ≤ a) (himage : a < 512 ∨ 512 + image.length ≤ a) :
    (resetWith image t0 s).mem.read a = 0 := by
  rw [resetWith_read_outside_image hfits t0 s himage, glyphMemory_read_of_ge _ hglyphs]

end

/-- Settles O15: the glyphs and the image are written to disjoint ranges of a memory that reads 0 past the glyphs, and
every other element is that of `State.reset` or a deadline. -/
theorem resetSetsTheWholeState : Obligations.ResetSetsTheWholeState := by
  refine fun image t0 s => ⟨fun hlong => load_tooLong hlong t0 s, fun hfits =>
    ⟨resetWith image t0 s, load_fits hfits t0 s, fun r => ?registers, rfl, rfl, rfl, fun j => ?stack,
      resetWith_read_glyph hfits t0 s, fun a => resetWith_read_image hfits t0 s,
      fun a => resetWith_read_unloaded hfits t0 s, rfl, rfl, pixel_clearFrame, fun k => ?keys,
      rfl, rfl, rfl, rfl, rfl⟩⟩
  case registers => exact Vector.getElem_replicate r.isLt
  case stack => exact Vector.getElem_replicate j.isLt
  case keys => exact Vector.getElem_replicate k.isLt

end Sys2Proof.Machine
